-- ==== Sys2Proof/Word.lean ====
section
/-! DEFINITION. The two widths of the hardware: Byte and Word (spec/00_scope.md R6, R7). -/

namespace Sys2Proof

/-- An 8-bit unsigned value: every data register but PC, and every memory cell (R6, R8). -/
abbrev Byte := BitVec 8

/-- A 16-bit unsigned value: PC and every address (R6, R8). -/
abbrev Word := BitVec 16

end Sys2Proof
end

