-- ==== Sys2Proof/Syntax/Operand.lean ====
section
/-! DEFINITION. The names syntax is made of: the 41 mnemonics, the thirteen addressing modes, their operand shape
classes, and an operand, which is a mode together with the operand bytes that mode uses. -/

namespace Sys2Proof

/-- The 41 mnemonics (spec/00_scope.md R3). -/
inductive Mnemonic where
  | lda | ldx | ldy | sta | stx | sty
  | tax | tay | txa | tya | tsx | txs
  | inc | dec | inx | iny | dex | dey
  | adc | sbc
  | and | ora | eor
  | asl | lsr | rol | ror
  | pha | pla | php | plp
  | jmp | bcc | bcs | beq | bne | bmi | bpl | bvc | bvs | brk
  deriving DecidableEq, Repr

/-- The thirteen addressing modes (spec/40_addressing_modes.md, R101 to R113). -/
inductive AddressingMode where
  | implied | accumulator | immediate
  | zeroPage | zeroPageX | zeroPageY
  | absolute | absoluteX | absoluteY
  | indirectX | indirectY | indirect
  | relative
  deriving DecidableEq, Repr

/-- The six operand shape classes (R114). -/
inductive OperandClass where
  | none | acc | imm | mem | ptr | rel
  deriving DecidableEq, Repr

/-- An addressing mode with its operand bytes, assembled as R83 says: one byte op1, or the word opw = op2:op1. -/
inductive Operand where
  | implied
  | accumulator
  | immediate (imm8 : Byte)
  | zeroPage (zp8 : Byte)
  | zeroPageX (zp8 : Byte)
  | zeroPageY (zp8 : Byte)
  | absolute (addr16 : Word)
  | absoluteX (addr16 : Word)
  | absoluteY (addr16 : Word)
  | indirectX (zp8 : Byte)
  | indirectY (zp8 : Byte)
  | indirect (addr16 : Word)
  | relative (rel8 : Byte)
  deriving DecidableEq, Repr

/-- The mode an operand is in. -/
def Operand.mode : Operand → AddressingMode
  | .implied => .implied
  | .accumulator => .accumulator
  | .immediate _ => .immediate
  | .zeroPage _ => .zeroPage
  | .zeroPageX _ => .zeroPageX
  | .zeroPageY _ => .zeroPageY
  | .absolute _ => .absolute
  | .absoluteX _ => .absoluteX
  | .absoluteY _ => .absoluteY
  | .indirectX _ => .indirectX
  | .indirectY _ => .indirectY
  | .indirect _ => .indirect
  | .relative _ => .relative

end Sys2Proof
end

