-- ==== Sys2Proof/Syntax.lean ====
section
/-! DEFINITION. The instructions: one constructor per mnemonic of spec/opcode_table.json. The table's 124 rows are the
pairs of a mnemonic and a mode; the mode stands in the operand, since one handler serves all its modes (R125). -/

namespace Sys2Proof

/-- An instruction: the handler's mnemonic applied to the operand its opcode byte selects
(spec/41_engine_step.md R125: one arm per mnemonic, and "the arm receives the addressing mode"). -/
inductive Instr where
  -- spec/42_load_store.md R140 to R145
  | lda (o : Operand)
  | ldx (o : Operand)
  | ldy (o : Operand)
  | sta (o : Operand)
  | stx (o : Operand)
  | sty (o : Operand)
  -- spec/43_transfer.md R150 to R155
  | tax (o : Operand)
  | tay (o : Operand)
  | txa (o : Operand)
  | tya (o : Operand)
  | tsx (o : Operand)
  | txs (o : Operand)
  -- spec/44_inc_dec.md R160 to R165
  | inc (o : Operand)
  | dec (o : Operand)
  | inx (o : Operand)
  | iny (o : Operand)
  | dex (o : Operand)
  | dey (o : Operand)
  -- spec/45_arithmetic.md R170, R171
  | adc (o : Operand)
  | sbc (o : Operand)
  -- spec/46_logical.md R180 to R182
  | and (o : Operand)
  | ora (o : Operand)
  | eor (o : Operand)
  -- spec/47_shift_rotate.md R190 to R193
  | asl (o : Operand)
  | lsr (o : Operand)
  | rol (o : Operand)
  | ror (o : Operand)
  -- spec/48_stack.md R202 to R205
  | pha (o : Operand)
  | pla (o : Operand)
  | php (o : Operand)
  | plp (o : Operand)
  -- spec/49_control_flow_halt.md R210 to R220
  | jmp (o : Operand)
  | bcc (o : Operand)
  | bcs (o : Operand)
  | beq (o : Operand)
  | bne (o : Operand)
  | bmi (o : Operand)
  | bpl (o : Operand)
  | bvc (o : Operand)
  | bvs (o : Operand)
  | brk (o : Operand)
  deriving DecidableEq, Repr

/-- The mnemonic of an instruction. -/
def Instr.mnemonic : Instr → Mnemonic
  | .lda _ => .lda
  | .ldx _ => .ldx
  | .ldy _ => .ldy
  | .sta _ => .sta
  | .stx _ => .stx
  | .sty _ => .sty
  | .tax _ => .tax
  | .tay _ => .tay
  | .txa _ => .txa
  | .tya _ => .tya
  | .tsx _ => .tsx
  | .txs _ => .txs
  | .inc _ => .inc
  | .dec _ => .dec
  | .inx _ => .inx
  | .iny _ => .iny
  | .dex _ => .dex
  | .dey _ => .dey
  | .adc _ => .adc
  | .sbc _ => .sbc
  | .and _ => .and
  | .ora _ => .ora
  | .eor _ => .eor
  | .asl _ => .asl
  | .lsr _ => .lsr
  | .rol _ => .rol
  | .ror _ => .ror
  | .pha _ => .pha
  | .pla _ => .pla
  | .php _ => .php
  | .plp _ => .plp
  | .jmp _ => .jmp
  | .bcc _ => .bcc
  | .bcs _ => .bcs
  | .beq _ => .beq
  | .bne _ => .bne
  | .bmi _ => .bmi
  | .bpl _ => .bpl
  | .bvc _ => .bvc
  | .bvs _ => .bvs
  | .brk _ => .brk

/-- The operand of an instruction: its mode and its operand bytes. -/
def Instr.operand : Instr → Operand
  | .lda o => o
  | .ldx o => o
  | .ldy o => o
  | .sta o => o
  | .stx o => o
  | .sty o => o
  | .tax o => o
  | .tay o => o
  | .txa o => o
  | .tya o => o
  | .tsx o => o
  | .txs o => o
  | .inc o => o
  | .dec o => o
  | .inx o => o
  | .iny o => o
  | .dex o => o
  | .dey o => o
  | .adc o => o
  | .sbc o => o
  | .and o => o
  | .ora o => o
  | .eor o => o
  | .asl o => o
  | .lsr o => o
  | .rol o => o
  | .ror o => o
  | .pha o => o
  | .pla o => o
  | .php o => o
  | .plp o => o
  | .jmp o => o
  | .bcc o => o
  | .bcs o => o
  | .beq o => o
  | .bne o => o
  | .bmi o => o
  | .bpl o => o
  | .bvc o => o
  | .bvs o => o
  | .brk o => o

end Sys2Proof
end

