-- ==== Sys2Proof/Config.lean ====
section
/-! DEFINITION. The parameters of the hardware that spec/00_scope.md R6 leaves to whoever builds a machine: LOAD_ADDR
(OPEN) and OPCODE_TABLE (default in Decode.lean). There is no free value: the step is deterministic (R132). -/

namespace Sys2Proof

/-- One row of an opcode table (spec/30_encoding.md R80). baseCycles is metadata that no rule reads (R93). -/
structure Descriptor where
  opcodeByte : Byte
  mnemonic : Mnemonic
  instructionLength : Nat
  baseCycles : Nat
  addressingMode : AddressingMode
  deriving DecidableEq, Repr

/-- The parameters of one machine (spec/92_eei_decisions.md section 2). The rows need not form a legal table: a machine
given rows that break R95 is refused before any step (spec/93_implementation_defined.md item 3). -/
structure Config where
  loadAddr : Word
  opcodeRows : List Descriptor
  deriving DecidableEq, Repr

end Sys2Proof
end

