-- ==== Sys2Proof/WellFormed.lean ====
section
/-! DEFINITION. Which instructions the default opcode table can name: the modes of each mnemonic, transcribed from the
Encoding line of its own rule (spec/42_load_store.md to 49_control_flow_halt.md), not from the table R86. -/

namespace Sys2Proof

/-- The addressing modes the spec's Encoding lines give a mnemonic (rules R140 to R220). -/
def Mnemonic.modes : Mnemonic → List AddressingMode
  | .lda => [.immediate, .zeroPage, .zeroPageX, .absolute, .absoluteX, .absoluteY, .indirectX, .indirectY]
  | .ldx => [.immediate, .zeroPage, .zeroPageY, .absolute, .absoluteY]
  | .ldy => [.immediate, .zeroPage, .zeroPageX, .absolute, .absoluteX]
  | .sta => [.zeroPage, .zeroPageX, .absolute, .absoluteX, .absoluteY, .indirectX, .indirectY]
  | .stx => [.zeroPage, .zeroPageY, .absolute]
  | .sty => [.zeroPage, .zeroPageX, .absolute]
  | .tax | .tay | .txa | .tya | .tsx | .txs => [.implied]
  | .inc | .dec => [.zeroPage, .zeroPageX, .absolute, .absoluteX]
  | .inx | .iny | .dex | .dey => [.implied]
  | .adc | .sbc | .and | .ora | .eor =>
    [.immediate, .zeroPage, .zeroPageX, .absolute, .absoluteX, .absoluteY, .indirectX, .indirectY]
  | .asl | .lsr | .rol | .ror => [.accumulator, .zeroPage, .zeroPageX, .absolute, .absoluteX]
  | .pha | .pla | .php | .plp => [.implied]
  | .jmp => [.absolute, .indirect]
  | .bcc | .bcs | .beq | .bne | .bmi | .bpl | .bvc | .bvs => [.relative]
  | .brk => [.implied]

/-- An instruction of the default table: its operand is in one of its mnemonic's modes. Operand bytes are
unconstrained (spec/30_encoding.md R89). -/
abbrev Instr.WellFormed (i : Instr) : Prop := i.operand.mode ∈ i.mnemonic.modes

end Sys2Proof
end

