-- ==== Sys2Proof/Decode.lean ====
section
/-! DEFINITION. Decoding bytes to an instruction, total and refusing by name, with the default opcode table; after it the
encoder, written from the Encoding lines of the instruction rules and not from the table
(spec/30_encoding.md). -/

namespace Sys2Proof

/-! ### Byte order (spec/00_scope.md R9, spec/20_memory.md R57) -/

/-- word(h, l) = {h, l}. -/
def word (h l : Byte) : Word := h ++ l

/-- lo(w) = w[7:0]. -/
def lo (w : Word) : Byte := w.extractLsb' 0 8

/-- hi(w) = w[15:8]. -/
def hi (w : Word) : Byte := w.extractLsb' 8 8

/-! ### Lengths -/

/-- The length in bytes of an instruction in a mode (R85). -/
def AddressingMode.length : AddressingMode → Nat
  | .implied | .accumulator => 1
  | .immediate | .zeroPage | .zeroPageX | .zeroPageY | .indirectX | .indirectY | .relative => 2
  | .absolute | .absoluteX | .absoluteY | .indirect => 3

/-- The length in bytes of an instruction with this operand (R85). -/
def Operand.length (o : Operand) : Nat := o.mode.length

/-- The length in bytes of an instruction (R85). -/
def Instr.length (i : Instr) : Nat := i.operand.length

/-! ### The opcode table -/

/-- The demands of R95 on a table given as a parameter: keys unique, and every row's length the one R85 gives its mode.
Its third demand, a mnemonic of the 41, is the type Mnemonic. -/
abbrev legalRows (rows : List Descriptor) : Prop :=
  (rows.map (·.opcodeByte)).Nodup ∧ ∀ d ∈ rows, d.instructionLength = d.addressingMode.length

/-- An opcode table that meets R95. -/
structure OpcodeTable where
  rows : List Descriptor
  legal : legalRows rows

/-- The table made of rows given as a parameter, or nothing where they break R95. -/
def tableOfRows (rows : List Descriptor) : Option OpcodeTable :=
  if h : legalRows rows then some ⟨rows, h⟩ else none

/-- Decode(b): the descriptor of an opcode byte, or nothing (R84). -/
def lookupOpcode (T : OpcodeTable) (b : Byte) : Option Descriptor :=
  T.rows.find? (fun d => d.opcodeByte == b)

/-- Rows 0x00 to 0x0F of R86. -/
def tableRows0 : List Descriptor := [
  ⟨0x00, .brk, 1, 7, .implied⟩,
  ⟨0x01, .ora, 2, 6, .indirectX⟩,
  ⟨0x05, .ora, 2, 3, .zeroPage⟩,
  ⟨0x06, .asl, 2, 5, .zeroPage⟩,
  ⟨0x08, .php, 1, 3, .implied⟩,
  ⟨0x09, .ora, 2, 2, .immediate⟩,
  ⟨0x0A, .asl, 1, 2, .accumulator⟩,
  ⟨0x0D, .ora, 3, 4, .absolute⟩,
  ⟨0x0E, .asl, 3, 6, .absolute⟩]

/-- Rows 0x10 to 0x1F of R86. -/
def tableRows1 : List Descriptor := [
  ⟨0x10, .bpl, 2, 2, .relative⟩,
  ⟨0x11, .ora, 2, 5, .indirectY⟩,
  ⟨0x15, .ora, 2, 4, .zeroPageX⟩,
  ⟨0x16, .asl, 2, 6, .zeroPageX⟩,
  ⟨0x19, .ora, 3, 4, .absoluteY⟩,
  ⟨0x1D, .ora, 3, 4, .absoluteX⟩,
  ⟨0x1E, .asl, 3, 7, .absoluteX⟩]

/-- Rows 0x20 to 0x2F of R86. -/
def tableRows2 : List Descriptor := [
  ⟨0x21, .and, 2, 6, .indirectX⟩,
  ⟨0x25, .and, 2, 3, .zeroPage⟩,
  ⟨0x26, .rol, 2, 5, .zeroPage⟩,
  ⟨0x28, .plp, 1, 4, .implied⟩,
  ⟨0x29, .and, 2, 2, .immediate⟩,
  ⟨0x2A, .rol, 1, 2, .accumulator⟩,
  ⟨0x2D, .and, 3, 4, .absolute⟩,
  ⟨0x2E, .rol, 3, 6, .absolute⟩]

/-- Rows 0x30 to 0x3F of R86. -/
def tableRows3 : List Descriptor := [
  ⟨0x30, .bmi, 2, 2, .relative⟩,
  ⟨0x31, .and, 2, 5, .indirectY⟩,
  ⟨0x35, .and, 2, 4, .zeroPageX⟩,
  ⟨0x36, .rol, 2, 6, .zeroPageX⟩,
  ⟨0x39, .and, 3, 4, .absoluteY⟩,
  ⟨0x3D, .and, 3, 4, .absoluteX⟩,
  ⟨0x3E, .rol, 3, 7, .absoluteX⟩]

/-- Rows 0x40 to 0x4F of R86. -/
def tableRows4 : List Descriptor := [
  ⟨0x41, .eor, 2, 6, .indirectX⟩,
  ⟨0x45, .eor, 2, 3, .zeroPage⟩,
  ⟨0x46, .lsr, 2, 5, .zeroPage⟩,
  ⟨0x48, .pha, 1, 3, .implied⟩,
  ⟨0x49, .eor, 2, 2, .immediate⟩,
  ⟨0x4A, .lsr, 1, 2, .accumulator⟩,
  ⟨0x4C, .jmp, 3, 3, .absolute⟩,
  ⟨0x4D, .eor, 3, 4, .absolute⟩,
  ⟨0x4E, .lsr, 3, 6, .absolute⟩]

/-- Rows 0x50 to 0x5F of R86. -/
def tableRows5 : List Descriptor := [
  ⟨0x50, .bvc, 2, 2, .relative⟩,
  ⟨0x51, .eor, 2, 5, .indirectY⟩,
  ⟨0x55, .eor, 2, 4, .zeroPageX⟩,
  ⟨0x56, .lsr, 2, 6, .zeroPageX⟩,
  ⟨0x59, .eor, 3, 4, .absoluteY⟩,
  ⟨0x5D, .eor, 3, 4, .absoluteX⟩,
  ⟨0x5E, .lsr, 3, 7, .absoluteX⟩]

/-- Rows 0x60 to 0x6F of R86. -/
def tableRows6 : List Descriptor := [
  ⟨0x61, .adc, 2, 6, .indirectX⟩,
  ⟨0x65, .adc, 2, 3, .zeroPage⟩,
  ⟨0x66, .ror, 2, 5, .zeroPage⟩,
  ⟨0x68, .pla, 1, 4, .implied⟩,
  ⟨0x69, .adc, 2, 2, .immediate⟩,
  ⟨0x6A, .ror, 1, 2, .accumulator⟩,
  ⟨0x6C, .jmp, 3, 5, .indirect⟩,
  ⟨0x6D, .adc, 3, 4, .absolute⟩,
  ⟨0x6E, .ror, 3, 6, .absolute⟩]

/-- Rows 0x70 to 0x7F of R86. -/
def tableRows7 : List Descriptor := [
  ⟨0x70, .bvs, 2, 2, .relative⟩,
  ⟨0x71, .adc, 2, 5, .indirectY⟩,
  ⟨0x75, .adc, 2, 4, .zeroPageX⟩,
  ⟨0x76, .ror, 2, 6, .zeroPageX⟩,
  ⟨0x79, .adc, 3, 4, .absoluteY⟩,
  ⟨0x7D, .adc, 3, 4, .absoluteX⟩,
  ⟨0x7E, .ror, 3, 7, .absoluteX⟩]

/-- Rows 0x80 to 0x8F of R86. -/
def tableRows8 : List Descriptor := [
  ⟨0x81, .sta, 2, 6, .indirectX⟩,
  ⟨0x84, .sty, 2, 3, .zeroPage⟩,
  ⟨0x85, .sta, 2, 3, .zeroPage⟩,
  ⟨0x86, .stx, 2, 3, .zeroPage⟩,
  ⟨0x88, .dey, 1, 2, .implied⟩,
  ⟨0x8A, .txa, 1, 2, .implied⟩,
  ⟨0x8C, .sty, 3, 4, .absolute⟩,
  ⟨0x8D, .sta, 3, 4, .absolute⟩,
  ⟨0x8E, .stx, 3, 4, .absolute⟩]

/-- Rows 0x90 to 0x9F of R86. -/
def tableRows9 : List Descriptor := [
  ⟨0x90, .bcc, 2, 2, .relative⟩,
  ⟨0x91, .sta, 2, 6, .indirectY⟩,
  ⟨0x94, .sty, 2, 4, .zeroPageX⟩,
  ⟨0x95, .sta, 2, 4, .zeroPageX⟩,
  ⟨0x96, .stx, 2, 4, .zeroPageY⟩,
  ⟨0x98, .tya, 1, 2, .implied⟩,
  ⟨0x99, .sta, 3, 5, .absoluteY⟩,
  ⟨0x9A, .txs, 1, 2, .implied⟩,
  ⟨0x9D, .sta, 3, 5, .absoluteX⟩]

/-- Rows 0xA0 to 0xAF of R86. -/
def tableRowsA : List Descriptor := [
  ⟨0xA0, .ldy, 2, 2, .immediate⟩,
  ⟨0xA1, .lda, 2, 6, .indirectX⟩,
  ⟨0xA2, .ldx, 2, 2, .immediate⟩,
  ⟨0xA4, .ldy, 2, 3, .zeroPage⟩,
  ⟨0xA5, .lda, 2, 3, .zeroPage⟩,
  ⟨0xA6, .ldx, 2, 3, .zeroPage⟩,
  ⟨0xA8, .tay, 1, 2, .implied⟩,
  ⟨0xA9, .lda, 2, 2, .immediate⟩,
  ⟨0xAA, .tax, 1, 2, .implied⟩,
  ⟨0xAC, .ldy, 3, 4, .absolute⟩,
  ⟨0xAD, .lda, 3, 4, .absolute⟩,
  ⟨0xAE, .ldx, 3, 4, .absolute⟩]

/-- Rows 0xB0 to 0xBF of R86. -/
def tableRowsB : List Descriptor := [
  ⟨0xB0, .bcs, 2, 2, .relative⟩,
  ⟨0xB1, .lda, 2, 5, .indirectY⟩,
  ⟨0xB4, .ldy, 2, 4, .zeroPageX⟩,
  ⟨0xB5, .lda, 2, 4, .zeroPageX⟩,
  ⟨0xB6, .ldx, 2, 4, .zeroPageY⟩,
  ⟨0xB9, .lda, 3, 4, .absoluteY⟩,
  ⟨0xBA, .tsx, 1, 2, .implied⟩,
  ⟨0xBC, .ldy, 3, 4, .absoluteX⟩,
  ⟨0xBD, .lda, 3, 4, .absoluteX⟩,
  ⟨0xBE, .ldx, 3, 4, .absoluteY⟩]

/-- Rows 0xC0 to 0xCF of R86. -/
def tableRowsC : List Descriptor := [
  ⟨0xC6, .dec, 2, 5, .zeroPage⟩,
  ⟨0xC8, .iny, 1, 2, .implied⟩,
  ⟨0xCA, .dex, 1, 2, .implied⟩,
  ⟨0xCE, .dec, 3, 6, .absolute⟩]

/-- Rows 0xD0 to 0xDF of R86. -/
def tableRowsD : List Descriptor := [
  ⟨0xD0, .bne, 2, 2, .relative⟩,
  ⟨0xD6, .dec, 2, 6, .zeroPageX⟩,
  ⟨0xDE, .dec, 3, 7, .absoluteX⟩]

/-- Rows 0xE0 to 0xEF of R86. -/
def tableRowsE : List Descriptor := [
  ⟨0xE1, .sbc, 2, 6, .indirectX⟩,
  ⟨0xE5, .sbc, 2, 3, .zeroPage⟩,
  ⟨0xE6, .inc, 2, 5, .zeroPage⟩,
  ⟨0xE8, .inx, 1, 2, .implied⟩,
  ⟨0xE9, .sbc, 2, 2, .immediate⟩,
  ⟨0xED, .sbc, 3, 4, .absolute⟩,
  ⟨0xEE, .inc, 3, 6, .absolute⟩]

/-- Rows 0xF0 to 0xFF of R86. -/
def tableRowsF : List Descriptor := [
  ⟨0xF0, .beq, 2, 2, .relative⟩,
  ⟨0xF1, .sbc, 2, 5, .indirectY⟩,
  ⟨0xF5, .sbc, 2, 4, .zeroPageX⟩,
  ⟨0xF6, .inc, 2, 6, .zeroPageX⟩,
  ⟨0xF9, .sbc, 3, 4, .absoluteY⟩,
  ⟨0xFD, .sbc, 3, 4, .absoluteX⟩,
  ⟨0xFE, .inc, 3, 7, .absoluteX⟩]

/-- The 124 rows of the default table, sorted by opcode byte (spec/30_encoding.md R86). PRESUMED, unsafe: 121 of the
bytes, the mode sets and the lengths are the spec's general knowledge (log 7). -/
def defaultRows : List Descriptor :=
  tableRows0 ++ tableRows1 ++ tableRows2 ++ tableRows3 ++ tableRows4 ++ tableRows5 ++ tableRows6 ++ tableRows7 ++
  tableRows8 ++ tableRows9 ++ tableRowsA ++ tableRowsB ++ tableRowsC ++ tableRowsD ++ tableRowsE ++ tableRowsF

/-- The default rows meet R95 (derived in R85, R95). -/
theorem defaultRows_legal : legalRows defaultRows := by decide +kernel

/-- The default OPCODE_TABLE (R86; spec/00_scope.md R6). -/
def defaultTable : OpcodeTable := ⟨defaultRows, defaultRows_legal⟩

/-! ### The decoder -/

/-- The handler of a mnemonic applied to an operand. -/
def instrOf : Mnemonic → Operand → Instr
  | .lda, o => .lda o
  | .ldx, o => .ldx o
  | .ldy, o => .ldy o
  | .sta, o => .sta o
  | .stx, o => .stx o
  | .sty, o => .sty o
  | .tax, o => .tax o
  | .tay, o => .tay o
  | .txa, o => .txa o
  | .tya, o => .tya o
  | .tsx, o => .tsx o
  | .txs, o => .txs o
  | .inc, o => .inc o
  | .dec, o => .dec o
  | .inx, o => .inx o
  | .iny, o => .iny o
  | .dex, o => .dex o
  | .dey, o => .dey o
  | .adc, o => .adc o
  | .sbc, o => .sbc o
  | .and, o => .and o
  | .ora, o => .ora o
  | .eor, o => .eor o
  | .asl, o => .asl o
  | .lsr, o => .lsr o
  | .rol, o => .rol o
  | .ror, o => .ror o
  | .pha, o => .pha o
  | .pla, o => .pla o
  | .php, o => .php o
  | .plp, o => .plp o
  | .jmp, o => .jmp o
  | .bcc, o => .bcc o
  | .bcs, o => .bcs o
  | .beq, o => .beq o
  | .bne, o => .bne o
  | .bmi, o => .bmi o
  | .bpl, o => .bpl o
  | .bvc, o => .bvc o
  | .bvs, o => .bvs o
  | .brk, o => .brk o

/-- The operand of a mode, assembled from the bytes after the opcode, with the bytes that are left (R82, R83); nothing
where there are too few bytes. -/
def decodeOperand : AddressingMode → List Byte → Option (Operand × List Byte)
  | .implied, bs => some (.implied, bs)
  | .accumulator, bs => some (.accumulator, bs)
  | .immediate, op1 :: bs => some (.immediate op1, bs)
  | .zeroPage, op1 :: bs => some (.zeroPage op1, bs)
  | .zeroPageX, op1 :: bs => some (.zeroPageX op1, bs)
  | .zeroPageY, op1 :: bs => some (.zeroPageY op1, bs)
  | .indirectX, op1 :: bs => some (.indirectX op1, bs)
  | .indirectY, op1 :: bs => some (.indirectY op1, bs)
  | .relative, op1 :: bs => some (.relative op1, bs)
  | .absolute, op1 :: op2 :: bs => some (.absolute (word op2 op1), bs)
  | .absoluteX, op1 :: op2 :: bs => some (.absoluteX (word op2 op1), bs)
  | .absoluteY, op1 :: op2 :: bs => some (.absoluteY (word op2 op1), bs)
  | .indirect, op1 :: op2 :: bs => some (.indirect (word op2 op1), bs)
  | .immediate, [] | .zeroPage, [] | .zeroPageX, [] | .zeroPageY, [] | .indirectX, [] | .indirectY, []
  | .relative, [] => none
  | .absolute, [] | .absoluteX, [] | .absoluteY, [] | .indirect, [] => none
  | .absolute, [_] | .absoluteX, [_] | .absoluteY, [_] | .indirect, [_] => none

/-- Why bytes do not decode. unimplementedOpcode is the hardware's own decode failure (R84, R88); truncated says that
the list ends inside an instruction, which cannot happen to the core, whose memory has no end (R80). -/
inductive DecodeError where
  | unimplementedOpcode (byte : Byte)
  | truncated
  deriving DecidableEq, Repr

/-- The instruction at the front of a list of bytes by a table, with the bytes after it, or why there is none
(R80, R84). -/
def decodeWith (T : OpcodeTable) : List Byte → Except DecodeError (Instr × List Byte)
  | [] => .error .truncated
  | b :: bs =>
    match lookupOpcode T b with
    | none => .error (.unimplementedOpcode b)
    | some d =>
      match decodeOperand d.addressingMode bs with
      | none => .error .truncated
      | some (o, rest) => .ok (instrOf d.mnemonic o, rest)

/-- The instruction at the front of a list of bytes by the default table. -/
def decode (bs : List Byte) : Except DecodeError (Instr × List Byte) := decodeWith defaultTable bs

/-- The three bytes of an instruction whose bits, numbered as spec/opcode_table.json numbers them, are w; the bits from
nbits on are 0. The first byte is bits 7..0 (R81). -/
def bytesOfTableWord (nbits w : Nat) : List Byte :=
  let v := w % 2 ^ nbits
  [BitVec.ofNat 8 v, BitVec.ofNat 8 (v / 256), BitVec.ofNat 8 (v / 65536)]

/-- The instruction the decoder reads from a word of spec/opcode_table.json. -/
def decodeTableWord (nbits w : Nat) : Option Instr :=
  match decode (bytesOfTableWord nbits w) with
  | .ok (i, _) => some i
  | .error _ => none

/-! ### The encoder -/

/-- The opcode byte of each mode of a mnemonic, from the Encoding line of its own rule (spec/42_load_store.md to
49_control_flow_halt.md, R140 to R220). -/
def Mnemonic.opcodes : Mnemonic → List (AddressingMode × Byte)
  | .lda => [(.immediate, 0xA9), (.zeroPage, 0xA5), (.zeroPageX, 0xB5), (.absolute, 0xAD),
    (.absoluteX, 0xBD), (.absoluteY, 0xB9), (.indirectX, 0xA1), (.indirectY, 0xB1)]
  | .ldx => [(.immediate, 0xA2), (.zeroPage, 0xA6), (.zeroPageY, 0xB6), (.absolute, 0xAE), (.absoluteY, 0xBE)]
  | .ldy => [(.immediate, 0xA0), (.zeroPage, 0xA4), (.zeroPageX, 0xB4), (.absolute, 0xAC), (.absoluteX, 0xBC)]
  | .sta => [(.zeroPage, 0x85), (.zeroPageX, 0x95), (.absolute, 0x8D),
    (.absoluteX, 0x9D), (.absoluteY, 0x99), (.indirectX, 0x81), (.indirectY, 0x91)]
  | .stx => [(.zeroPage, 0x86), (.zeroPageY, 0x96), (.absolute, 0x8E)]
  | .sty => [(.zeroPage, 0x84), (.zeroPageX, 0x94), (.absolute, 0x8C)]
  | .tax => [(.implied, 0xAA)]
  | .tay => [(.implied, 0xA8)]
  | .txa => [(.implied, 0x8A)]
  | .tya => [(.implied, 0x98)]
  | .tsx => [(.implied, 0xBA)]
  | .txs => [(.implied, 0x9A)]
  | .inc => [(.zeroPage, 0xE6), (.zeroPageX, 0xF6), (.absolute, 0xEE), (.absoluteX, 0xFE)]
  | .dec => [(.zeroPage, 0xC6), (.zeroPageX, 0xD6), (.absolute, 0xCE), (.absoluteX, 0xDE)]
  | .inx => [(.implied, 0xE8)]
  | .iny => [(.implied, 0xC8)]
  | .dex => [(.implied, 0xCA)]
  | .dey => [(.implied, 0x88)]
  | .adc => [(.immediate, 0x69), (.zeroPage, 0x65), (.zeroPageX, 0x75), (.absolute, 0x6D),
    (.absoluteX, 0x7D), (.absoluteY, 0x79), (.indirectX, 0x61), (.indirectY, 0x71)]
  | .sbc => [(.immediate, 0xE9), (.zeroPage, 0xE5), (.zeroPageX, 0xF5), (.absolute, 0xED),
    (.absoluteX, 0xFD), (.absoluteY, 0xF9), (.indirectX, 0xE1), (.indirectY, 0xF1)]
  | .and => [(.immediate, 0x29), (.zeroPage, 0x25), (.zeroPageX, 0x35), (.absolute, 0x2D),
    (.absoluteX, 0x3D), (.absoluteY, 0x39), (.indirectX, 0x21), (.indirectY, 0x31)]
  | .ora => [(.immediate, 0x09), (.zeroPage, 0x05), (.zeroPageX, 0x15), (.absolute, 0x0D),
    (.absoluteX, 0x1D), (.absoluteY, 0x19), (.indirectX, 0x01), (.indirectY, 0x11)]
  | .eor => [(.immediate, 0x49), (.zeroPage, 0x45), (.zeroPageX, 0x55), (.absolute, 0x4D),
    (.absoluteX, 0x5D), (.absoluteY, 0x59), (.indirectX, 0x41), (.indirectY, 0x51)]
  | .asl => [(.accumulator, 0x0A), (.zeroPage, 0x06), (.zeroPageX, 0x16), (.absolute, 0x0E), (.absoluteX, 0x1E)]
  | .lsr => [(.accumulator, 0x4A), (.zeroPage, 0x46), (.zeroPageX, 0x56), (.absolute, 0x4E), (.absoluteX, 0x5E)]
  | .rol => [(.accumulator, 0x2A), (.zeroPage, 0x26), (.zeroPageX, 0x36), (.absolute, 0x2E), (.absoluteX, 0x3E)]
  | .ror => [(.accumulator, 0x6A), (.zeroPage, 0x66), (.zeroPageX, 0x76), (.absolute, 0x6E), (.absoluteX, 0x7E)]
  | .pha => [(.implied, 0x48)]
  | .pla => [(.implied, 0x68)]
  | .php => [(.implied, 0x08)]
  | .plp => [(.implied, 0x28)]
  | .jmp => [(.absolute, 0x4C), (.indirect, 0x6C)]
  | .bcc => [(.relative, 0x90)]
  | .bcs => [(.relative, 0xB0)]
  | .beq => [(.relative, 0xF0)]
  | .bne => [(.relative, 0xD0)]
  | .bmi => [(.relative, 0x30)]
  | .bpl => [(.relative, 0x10)]
  | .bvc => [(.relative, 0x50)]
  | .bvs => [(.relative, 0x70)]
  | .brk => [(.implied, 0x00)]

/-- The opcode byte of a mnemonic in a mode, where the Encoding lines give one. -/
def encodeOpcode (m : Mnemonic) (mode : AddressingMode) : Option Byte := m.opcodes.lookup mode

/-- The operand bytes of an operand, low byte first (R81). -/
def encodeOperand : Operand → List Byte
  | .implied | .accumulator => []
  | .immediate b | .zeroPage b | .zeroPageX b | .zeroPageY b | .indirectX b | .indirectY b | .relative b => [b]
  | .absolute w | .absoluteX w | .absoluteY w | .indirect w => [lo w, hi w]

/-- The bytes of an instruction, where the default table has it. -/
def encode (i : Instr) : Option (List Byte) :=
  (encodeOpcode i.mnemonic i.operand.mode).map (fun b => b :: encodeOperand i.operand)

end Sys2Proof
end

