-- ==== Sys2Proof/Machine/State.lean ====
section
/-! DEFINITION. The whole state of the machine (spec/10_state.md R20: "There is nothing else"), the two faults, the
refusals, and the state right after reset. -/

namespace Sys2Proof.Machine

/-- The memory Mem (R39), as the cells that do not hold 0x00: addresses strictly rising, an unlisted address reads 0x00
(log 6). -/
abbrev Memory := List Host.Cell

/-- The canonical form of a memory: strictly rising addresses, all below 65536, no cell holding what an unlisted address
reads as. -/
abbrev Memory.wf (m : Memory) : Prop :=
  m.Pairwise (fun c d => c.1 < d.1) ∧ ∀ c ∈ m, c.1 < 65536 ∧ c.2 ≠ 0

/-- The five run-states (R40, R120). dispatching is a phase inside a step and is never seen between steps. -/
inductive RunState where
  | reset | fetching | dispatching | halted | faulted
  deriving DecidableEq, Repr

/-- The eight flags of the status byte, in bit order from bit 0 (R27). -/
inductive Flag where
  | c | z | i | d | b | u | v | n
  deriving DecidableEq, Repr

/-- The two faults, with what the fault record keeps of each (spec/60_exceptions.md R230, R234). The machine takes a
fault: the step answers a next state in run-state faulted that holds it (log 2), so no step answers Outcome.fault. -/
inductive Fault where
  /-- Raised at fetch when the byte has no row in the opcode table (R231). Safe: the state is unchanged but for the
  run-state and the record. -/
  | unimplementedOpcode (byte : Byte) (address : Word)
  /-- Raised by a handler whose mnemonic does not service the mode (R232); never with the default table. Safe, as
  above. -/
  | invalidAddressingMode (mode : AddressingMode) (mnemonic : Mnemonic) (byte : Byte) (address : Word)
  deriving DecidableEq, Repr

/-- Why a call has no next state. Every refusal is safe: nothing changes. -/
inductive Refusal where
  /-- An instruction that has no meaning yet. No arm of exec raises it. Safe. -/
  | notModelled (mnemonic : String)
  /-- Raised by Step and Run in run-state reset, where the spec says the call is refused (R130). Safe. -/
  | stepBeforeReset
  /-- Raised by Step and Run in run-state dispatching, for which R121 lists no such event (log 4). Safe. -/
  | stepWhileDispatching
  /-- Raised by Load for an image of more than 65536 bytes (spec/93_implementation_defined.md item 7). Safe. -/
  | imageTooLong
  /-- Raised by a host's Step for an opcode table that breaks R95 (spec/93_implementation_defined.md item 3). Safe. -/
  | illegalOpcodeTable
  deriving DecidableEq, Repr

/-- The complete state of the machine (R20). -/
structure State where
  /-- The accumulator A (R21). -/
  a : Byte
  /-- The index register X (R22). -/
  x : Byte
  /-- The index register Y (R22). -/
  y : Byte
  /-- The stack pointer SP (R23). -/
  sp : Byte
  /-- The program counter PC (R24). -/
  pc : Word
  /-- The status byte P (R26). -/
  p : Byte
  /-- The memory Mem (R39). -/
  mem : Memory
  /-- The run-state (R40). -/
  run : RunState
  /-- The fault record (R41). -/
  fault : Option Fault
  deriving DecidableEq, Repr

/-- The machine at construction, before the first Reset() (R39, R44): memory all zero, run-state reset. The registers are
unspecified there, so they are arguments (log 4). -/
def State.constructed (a x y sp : Byte) (pc : Word) (p : Byte) : State :=
  { a := a, x := x, y := y, sp := sp, pc := pc, p := p, mem := [], run := .reset, fault := none }

/-- The machine right after Reset() with nothing loaded (R43, R44): the reset vector of an all-zero memory is 0x0000. -/
def State.reset : State :=
  { a := 0x00, x := 0x00, y := 0x00, sp := 0xFF, pc := 0x0000, p := 0x00, mem := [], run := .fetching, fault := none }

end Sys2Proof.Machine
end

