-- ==== Sys2Proof/Machine/Ops.lean ====
section
/-! DEFINITION. The named operations over registers and memory, the stack engine, the engine's advance, taking a fault
and leaving it by Reset(). -/

namespace Sys2Proof.Machine

/-! ### Registers (spec/00_scope.md R10) -/

/-- A <- v. -/
def State.setA (s : State) (v : Byte) : State := { s with a := v }

/-- X <- v. -/
def State.setX (s : State) (v : Byte) : State := { s with x := v }

/-- Y <- v. -/
def State.setY (s : State) (v : Byte) : State := { s with y := v }

/-- SP <- v. -/
def State.setSp (s : State) (v : Byte) : State := { s with sp := v }

/-- PC <- w. -/
def State.setPc (s : State) (w : Word) : State := { s with pc := w }

/-- P <- v. -/
def State.setP (s : State) (v : Byte) : State := { s with p := v }

/-- Mem <- m. -/
def State.setMem (s : State) (m : Memory) : State := { s with mem := m }

/-- run-state <- r. -/
def State.setRun (s : State) (r : RunState) : State := { s with run := r }

/-- fault record <- f. -/
def State.setFault (s : State) (f : Option Fault) : State := { s with fault := f }

/-! ### Widening (spec/00_scope.md R9) -/

/-- zext_16(b). -/
def zext16 (b : Byte) : Word := b.zeroExtend 16

/-- sext_16(b). -/
def sext16 (b : Byte) : Word := b.signExtend 16

/-! ### Memory as a canonical list -/

/-- The byte at an address: the first cell with that address, or 0x00. -/
def Memory.read : Memory → Nat → Byte
  | [], _ => 0x00
  | (a, b) :: m, k => if a = k then b else Memory.read m k

/-- A memory without the cells at an address. -/
def Memory.erase : Memory → Nat → Memory
  | [], _ => []
  | (a, b) :: m, k => if a = k then Memory.erase m k else (a, b) :: Memory.erase m k

/-- A memory with a cell put before the first cell of a higher address. -/
def Memory.insert : Memory → Nat → Byte → Memory
  | [], k, v => [(k, v)]
  | (a, b) :: m, k, v => if k < a then (k, v) :: (a, b) :: m else (a, b) :: Memory.insert m k v

/-- A memory after a byte is written: writing 0x00 removes the cell. -/
def Memory.write (m : Memory) (k : Nat) (v : Byte) : Memory :=
  if v = 0x00 then Memory.erase m k else Memory.insert (Memory.erase m k) k v

/-! ### Access primitives (spec/20_memory.md R52 to R56) -/

/-- readByte: MemRead(addr, 1) (R52). -/
def State.readByte (s : State) (addr : Word) : Byte := Memory.read s.mem addr.toNat

/-- writeByte: MemWrite(addr, 1, v) (R53). -/
def State.writeByte (s : State) (addr : Word) (v : Byte) : State := s.setMem (Memory.write s.mem addr.toNat v)

/-- readWord: MemRead(addr, 2), little-endian, both addresses modulo 65536 (R54). -/
def State.readWord (s : State) (addr : Word) : Word := word (s.readByte (addr + 1)) (s.readByte addr)

/-- writeWord: MemWrite(addr, 2, w) (R55). -/
def State.writeWord (s : State) (addr : Word) (w : Word) : State :=
  (s.writeByte addr (lo w)).writeByte (addr + 1) (hi w)

/-- MemReadZP(p): both bytes in the zero page (R56). -/
def State.readZP (s : State) (p : Byte) : Word := word (s.readByte (zext16 (p + 1))) (s.readByte (zext16 p))

/-- MemReadPage(w): both bytes in the page of w (R56). -/
def State.readPage (s : State) (w : Word) : Word := word (s.readByte (word (hi w) (lo w + 1))) (s.readByte w)

/-- Consecutive bytes written from an address on, modulo 65536. -/
def State.writeBytes (s : State) (addr : Word) : List Byte → State
  | [] => s
  | b :: bs => (s.writeByte addr b).writeBytes (addr + 1) bs

/-! ### The stack engine (spec/48_stack.md) -/

/-- The address SP names: 0x0100 + SP (spec/10_state.md R23). -/
def stackAddr (sp : Byte) : Word := 0x0100 + zext16 sp

/-- Push(v): write at 0x0100 + SP, then SP <- SP - 1 mod 256 (R200). -/
def State.push (s : State) (v : Byte) : State := (s.writeByte (stackAddr s.sp) v).setSp (s.sp - 1)

/-- The state after Pop(): SP <- SP + 1 mod 256 (R201). -/
def State.popState (s : State) : State := s.setSp (s.sp + 1)

/-- The byte Pop() returns: the one at 0x0100 + the new SP (R201). -/
def State.popValue (s : State) : Byte := s.readByte (stackAddr (s.sp + 1))

/-! ### The handler's result and the engine's advance (spec/41_engine_step.md R123, R126) -/

/-- What a handler gives back: the state it made, whether it redirected control flow, whether it is halt-class. -/
structure Effect where
  state : State
  redirected : Bool
  halt : Bool
  deriving DecidableEq, Repr

/-- A handler that leaves PC to the engine. -/
def Effect.proceed (s : State) : Effect := { state := s, redirected := false, halt := false }

/-- A handler that executed PC <- target. -/
def Effect.redirect (s : State) (target : Word) : Effect :=
  { state := s.setPc target, redirected := true, halt := false }

/-- The halt-class handler (R127). -/
def Effect.halting (s : State) : Effect := { state := s, redirected := false, halt := true }

/-- Steps 3 and 4 of R123: advance PC from pc0 by the length unless the handler redirected, then set the run-state. -/
def Effect.complete (e : Effect) (pc0 : Word) (length : Nat) : State :=
  (if e.redirected then e.state else e.state.setPc (pc0 + BitVec.ofNat 16 length)).setRun
    (if e.halt then .halted else .fetching)

/-! ### Taking a fault, and Reset() (spec/60_exceptions.md R235, R239; spec/70_reset_and_hazards.md R260) -/

/-- Fault entry: run-state <- Faulted, the fault recorded, nothing else (R235; logs 2, 24). Nothing is saved and PC keeps
pc0. -/
def State.raise (s : State) (f : Fault) : State := (s.setRun .faulted).setFault (some f)

/-- The address of the reset vector's low byte (spec/00_scope.md R6). -/
def resetVector : Word := 0xFFFC

/-- Reset(), the only way out of a fault or a halt (R260, R239). Memory is untouched. -/
def State.doReset (s : State) : State :=
  { s with
    pc := s.readWord resetVector, sp := 0xFF, p := 0x00, a := 0x00, x := 0x00, y := 0x00
    fault := none, run := .fetching }

end Sys2Proof.Machine
end

