-- ==== Sys2Proof/Machine/Flags.lean ====
section
/-! DEFINITION. The status byte's accessors and every flag computation: SetNZ, the 9-bit sums of ADC and SBC, the bits
shifts move. -/

namespace Sys2Proof.Machine

/-! ### Flag accessors (spec/10_state.md R27, R38) -/

/-- The bit position of a flag in P (R27). PRESUMED, unsafe: the positions are decision D4 (log 8). -/
def Flag.bit : Flag → Nat
  | .c => 0 | .z => 1 | .i => 2 | .d => 3 | .b => 4 | .u => 5 | .v => 6 | .n => 7

/-- The mask of a flag (R27). -/
def Flag.mask (f : Flag) : Byte := 1#8 <<< f.bit

/-- IsFlagSet: a flag's bit of a status byte (R38). -/
def getFlag (p : Byte) (f : Flag) : Bool := p.getLsbD f.bit

/-- SetFlag and ClearFlag: or in the flag's bit, or and with its complement (R38). -/
def putFlag (p : Byte) (f : Flag) (b : Bool) : Byte := if b then p ||| f.mask else p &&& ~~~f.mask

/-- IsFlagSet on the live register. -/
def State.flag (s : State) (f : Flag) : Bool := getFlag s.p f

/-! ### SetNZ (spec/10_state.md R31) -/

/-- P after SetNZ(v). -/
def setNZ (p v : Byte) : Byte := putFlag (putFlag p .z (v == 0x00)) .n v.msb

/-- SetNZ(v) on the live register. -/
def State.setNZ (s : State) (v : Byte) : State := s.setP (Machine.setNZ s.p v)

/-! ### ADC and SBC (spec/45_arithmetic.md R170, R171) -/

/-- The 9-bit intermediate t = a + m + c, exact (R170). -/
def sum9 (a m : Byte) (c : Bool) : Nat := a.toNat + m.toNat + c.toNat

/-- r = t mod 256. -/
def sumResult (a m : Byte) (c : Bool) : Byte := BitVec.ofNat 8 (sum9 a m c)

/-- Carry = t[8]. -/
def sumCarry (a m : Byte) (c : Bool) : Bool := (sum9 a m c).testBit 8

/-- Overflow: the addends share a sign and the result's differs. -/
def sumOverflow (a m : Byte) (c : Bool) : Bool :=
  a.msb == m.msb && (sumResult a m c).msb != a.msb

/-- The operand SBC adds: n = m ^ 0xFF (R171). PRESUMED, unsafe for V: decision D10 (log 12). -/
def sbcAddend (m : Byte) : Byte := m ^^^ 0xFF

/-- The register and flag part of ADC with operand m: C and V, then A and SetNZ (R170). D is not read (log 15). -/
def State.addWithCarry (s : State) (m : Byte) : State :=
  let c := s.flag .c
  let r := sumResult s.a m c
  ((s.setP (putFlag (putFlag s.p .c (sumCarry s.a m c)) .v (sumOverflow s.a m c))).setA r).setNZ r

/-! ### Shifts and rotates (spec/47_shift_rotate.md R190 to R193) -/

/-- A move by one bit: its result and its outgoing bit, from the operand and the old Carry. -/
structure ShiftResult where
  result : Byte
  carry : Bool
  deriving DecidableEq, Repr

/-- ASL (R190). -/
def shiftAsl (v : Byte) (_c : Bool) : ShiftResult := { result := v <<< 1, carry := v.getLsbD 7 }

/-- LSR (R191). -/
def shiftLsr (v : Byte) (_c : Bool) : ShiftResult := { result := v >>> 1, carry := v.getLsbD 0 }

/-- ROL: the old Carry enters bit 0 (R192). -/
def shiftRol (v : Byte) (c : Bool) : ShiftResult :=
  { result := (v <<< 1) ||| (if c then 0x01 else 0x00), carry := v.getLsbD 7 }

/-- ROR: the old Carry enters bit 7 (R193). -/
def shiftRor (v : Byte) (c : Bool) : ShiftResult :=
  { result := (v >>> 1) ||| (if c then 0x80 else 0x00), carry := v.getLsbD 0 }

/-- The flag part of a shift: C from the outgoing bit, then SetNZ of the result. -/
def State.setShiftFlags (s : State) (r : ShiftResult) : State :=
  (s.setP (putFlag s.p .c r.carry)).setNZ r.result

/-! ### The status byte on the stack (spec/48_stack.md R204, R205) -/

/-- The copy PHP pushes: Break and Unused forced to 1 (R204). -/
def pushedStatus (p : Byte) : Byte := p ||| 0x30

/-- The value PLP writes to P: Break and Unused cleared (R205). -/
def pulledStatus (v : Byte) : Byte := v &&& 0xCF

end Sys2Proof.Machine
end

