-- ==== Sys2Proof/Machine/Operands.lean ====
section
/-! DEFINITION. The addressing resolver, operand access, which modes a handler services, and the dispatch of a handler
(spec/40_addressing_modes.md). -/

namespace Sys2Proof.Machine

/-- The resolver's five result shapes (R100). -/
inductive Resolved where
  | noOperand
  | acc
  | imm (v : Byte)
  | addr (ea : Word)
  | target (t : Word)
  deriving DecidableEq, Repr

/-- The resolver, a pure function: pc0 is s.pc, which no handler has changed when it runs (R100 to R113). -/
def resolve (o : Operand) (s : State) : Resolved :=
  match o with
  | .implied => .noOperand
  | .accumulator => .acc
  | .immediate v => .imm v
  | .zeroPage b => .addr (zext16 b)
  | .zeroPageX b => .addr (zext16 (b + s.x))
  | .zeroPageY b => .addr (zext16 (b + s.y))
  | .absolute w => .addr w
  | .absoluteX w => .addr (w + zext16 s.x)
  | .absoluteY w => .addr (w + zext16 s.y)
  | .indirectX b => .addr (s.readZP (b + s.x))
  | .indirectY b => .addr (s.readZP b + zext16 s.y)
  | .indirect w => .addr (s.readPage w)
  | .relative d => .target (s.pc + 2 + sext16 d)

/-- OperandRead: defined for the shapes Imm, Addr and Acc (R115). -/
def operandRead (r : Resolved) (s : State) : Option Byte :=
  match r with
  | .imm v => some v
  | .addr ea => some (s.readByte ea)
  | .acc => some s.a
  | .noOperand => none
  | .target _ => none

/-- OperandWrite: defined for the shapes Addr and Acc (R116). -/
def operandWrite (r : Resolved) (v : Byte) (s : State) : Option State :=
  match r with
  | .addr ea => some (s.writeByte ea v)
  | .acc => some (s.setA v)
  | .imm _ => none
  | .noOperand => none
  | .target _ => none

/-- The class of a mode (R114). -/
def operandClass : AddressingMode → OperandClass
  | .implied => .none
  | .accumulator => .acc
  | .immediate => .imm
  | .zeroPage | .zeroPageX | .zeroPageY | .absolute | .absoluteX | .absoluteY | .indirectX | .indirectY => .mem
  | .indirect => .ptr
  | .relative => .rel

/-- Whether a mnemonic's handler services a mode (R117; decision D17, log 16). -/
def services (m : Mnemonic) (mode : AddressingMode) : Bool :=
  match m with
  | .lda | .ldx | .ldy | .adc | .sbc | .and | .ora | .eor =>
    operandClass mode == .imm || operandClass mode == .mem
  | .sta | .stx | .sty | .inc | .dec => operandClass mode == .mem
  | .asl | .lsr | .rol | .ror => operandClass mode == .acc || operandClass mode == .mem
  | .tax | .tay | .txa | .tya | .tsx | .txs | .inx | .iny | .dex | .dey | .pha | .pla | .php | .plp | .brk =>
    operandClass mode == .none
  | .jmp => mode == .absolute || operandClass mode == .ptr
  | .bcc | .bcs | .beq | .bne | .bmi | .bpl | .bvc | .bvs => operandClass mode == .rel

/-- The fault a handler raises on a mode it does not service, with the opcode byte and the address it was fetched from
(spec/60_exceptions.md R232, R234). -/
def invalidMode (m : Mnemonic) (o : Operand) (s : State) : Fault :=
  .invalidAddressingMode o.mode m (s.readByte s.pc) s.pc

/-- Dispatch (spec/41_engine_step.md R123 step 2 to 4): check the mode before anything is read or written, run the
handler on the resolved operand, complete. A handler that has no case for the resolved shape faults likewise. -/
def dispatch (m : Mnemonic) (o : Operand) (s : State) (handler : Resolved → Option Effect) :
    Host.Outcome State Fault Refusal :=
  match if services m o.mode then handler (resolve o s) else none with
  | some e => .next (e.complete s.pc o.length)
  | none => .next (s.raise (invalidMode m o s))

/-- A handler that reads its operand and goes on. -/
def dispatchRead (m : Mnemonic) (o : Operand) (s : State) (f : Byte → State) : Host.Outcome State Fault Refusal :=
  dispatch m o s (fun r => (operandRead r s).map (fun v => .proceed (f v)))

/-- A handler that writes a byte to its operand and goes on. -/
def dispatchWrite (m : Mnemonic) (o : Operand) (s : State) (v : Byte) : Host.Outcome State Fault Refusal :=
  dispatch m o s (fun r => (operandWrite r v s).map .proceed)

/-- A handler that reads its operand and writes the same place: the location is resolved once (R116; log 21). f gives the byte
written back, g what else happens to the state after the write. -/
def dispatchModify (m : Mnemonic) (o : Operand) (s : State) (f : Byte → Byte) (g : Byte → State → State) :
    Host.Outcome State Fault Refusal :=
  dispatch m o s (fun r =>
    (operandRead r s).bind (fun v => (operandWrite r (f v) s).map (fun t => .proceed (g v t))))

/-- A handler that needs no operand. -/
def dispatchImplied (m : Mnemonic) (o : Operand) (s : State) (e : Effect) : Host.Outcome State Fault Refusal :=
  dispatch m o s (fun r => if r = .noOperand then some e else none)

end Sys2Proof.Machine
end

