-- ==== Sys2Proof/Machine/Arithmetic.lean ====
section
/-! DEFINITION. Arithmetic: ADC SBC, binary whatever D holds (spec/45_arithmetic.md R170, R171, R173). -/

namespace Sys2Proof.Machine

/-- ADC: A + m + C (R170). -/
def execAdc (o : Operand) (s : State) : Host.Outcome State Fault Refusal :=
  dispatchRead .adc o s (fun m => s.addWithCarry m)

/-- SBC: ADC of m ^ 0xFF (R171). -/
def execSbc (o : Operand) (s : State) : Host.Outcome State Fault Refusal :=
  dispatchRead .sbc o s (fun m => s.addWithCarry (sbcAddend m))

end Sys2Proof.Machine
end

