-- ==== Sys2Proof/Machine/ControlFlow.lean ====
section
/-! DEFINITION. Control flow and halt: JMP, the eight branches, BRK (spec/49_control_flow_halt.md). The conditions are decision
D3 (log 9). -/

namespace Sys2Proof.Machine

/-- The branch template: redirect to the target when the condition holds (R211). -/
def branch (m : Mnemonic) (o : Operand) (s : State) (cond : Bool) : Host.Outcome State Fault Refusal :=
  dispatch m o s (fun r =>
    match r with
    | .target t => some (if cond then .redirect s t else .proceed s)
    | .noOperand => none
    | .acc => none
    | .imm _ => none
    | .addr _ => none)

/-- JMP: PC <- EA, always a redirect (R210; decisions D7, D8, log 14). -/
def execJmp (o : Operand) (s : State) : Host.Outcome State Fault Refusal :=
  dispatch .jmp o s (fun r =>
    match r with
    | .addr ea => some (.redirect s ea)
    | .noOperand => none
    | .acc => none
    | .imm _ => none
    | .target _ => none)

/-- BCC: taken when C = 0 (R212). -/
def execBcc (o : Operand) (s : State) : Host.Outcome State Fault Refusal :=
  branch .bcc o s (!s.flag .c)

/-- BCS: taken when C = 1 (R213). -/
def execBcs (o : Operand) (s : State) : Host.Outcome State Fault Refusal :=
  branch .bcs o s (s.flag .c)

/-- BEQ: taken when Z = 1 (R214). -/
def execBeq (o : Operand) (s : State) : Host.Outcome State Fault Refusal :=
  branch .beq o s (s.flag .z)

/-- BNE: taken when Z = 0 (R215). -/
def execBne (o : Operand) (s : State) : Host.Outcome State Fault Refusal :=
  branch .bne o s (!s.flag .z)

/-- BMI: taken when N = 1 (R216). -/
def execBmi (o : Operand) (s : State) : Host.Outcome State Fault Refusal :=
  branch .bmi o s (s.flag .n)

/-- BPL: taken when N = 0 (R217). -/
def execBpl (o : Operand) (s : State) : Host.Outcome State Fault Refusal :=
  branch .bpl o s (!s.flag .n)

/-- BVC: taken when V = 0 (R218). -/
def execBvc (o : Operand) (s : State) : Host.Outcome State Fault Refusal :=
  branch .bvc o s (!s.flag .v)

/-- BVS: taken when V = 1 (R219). -/
def execBvs (o : Operand) (s : State) : Host.Outcome State Fault Refusal :=
  branch .bvs o s (s.flag .v)

/-- BRK: halt; PC advances by 1 and nothing else changes (R220, R127; decision D12, log 13). -/
def execBrk (o : Operand) (s : State) : Host.Outcome State Fault Refusal :=
  dispatchImplied .brk o s (.halting s)

end Sys2Proof.Machine
end

