-- ==== Sys2Proof/Machine/IncDec.lean ====
section
/-! DEFINITION. Increment and decrement: INC DEC INX INY DEX DEY (spec/44_inc_dec.md). C and V are not written. -/

namespace Sys2Proof.Machine

/-- INC: memory + 1 modulo 256, SetNZ (R160). -/
def execInc (o : Operand) (s : State) : Host.Outcome State Fault Refusal :=
  dispatchModify .inc o s (fun v => v + 1) (fun v t => t.setNZ (v + 1))

/-- DEC: memory - 1 modulo 256, SetNZ (R161). -/
def execDec (o : Operand) (s : State) : Host.Outcome State Fault Refusal :=
  dispatchModify .dec o s (fun v => v - 1) (fun v t => t.setNZ (v - 1))

/-- INX: X + 1 modulo 256, SetNZ (R162). -/
def execInx (o : Operand) (s : State) : Host.Outcome State Fault Refusal :=
  dispatchImplied .inx o s (.proceed ((s.setX (s.x + 1)).setNZ (s.x + 1)))

/-- INY: Y + 1 modulo 256, SetNZ (R163). -/
def execIny (o : Operand) (s : State) : Host.Outcome State Fault Refusal :=
  dispatchImplied .iny o s (.proceed ((s.setY (s.y + 1)).setNZ (s.y + 1)))

/-- DEX: X - 1 modulo 256, SetNZ (R164). -/
def execDex (o : Operand) (s : State) : Host.Outcome State Fault Refusal :=
  dispatchImplied .dex o s (.proceed ((s.setX (s.x - 1)).setNZ (s.x - 1)))

/-- DEY: Y - 1 modulo 256, SetNZ (R165). -/
def execDey (o : Operand) (s : State) : Host.Outcome State Fault Refusal :=
  dispatchImplied .dey o s (.proceed ((s.setY (s.y - 1)).setNZ (s.y - 1)))

end Sys2Proof.Machine
end

