-- ==== Sys2Proof/Machine/LoadStore.lean ====
section
/-! DEFINITION. Load and store: LDA LDX LDY STA STX STY (spec/42_load_store.md). -/

namespace Sys2Proof.Machine

/-- LDA: A <- operand, SetNZ (R140). -/
def execLda (o : Operand) (s : State) : Host.Outcome State Fault Refusal :=
  dispatchRead .lda o s (fun v => (s.setA v).setNZ v)

/-- LDX: X <- operand, SetNZ (R141). -/
def execLdx (o : Operand) (s : State) : Host.Outcome State Fault Refusal :=
  dispatchRead .ldx o s (fun v => (s.setX v).setNZ v)

/-- LDY: Y <- operand, SetNZ (R142). -/
def execLdy (o : Operand) (s : State) : Host.Outcome State Fault Refusal :=
  dispatchRead .ldy o s (fun v => (s.setY v).setNZ v)

/-- STA: one write of A, no flag (R143). -/
def execSta (o : Operand) (s : State) : Host.Outcome State Fault Refusal :=
  dispatchWrite .sta o s s.a

/-- STX: one write of X, no flag (R144). -/
def execStx (o : Operand) (s : State) : Host.Outcome State Fault Refusal :=
  dispatchWrite .stx o s s.x

/-- STY: one write of Y, no flag (R145). -/
def execSty (o : Operand) (s : State) : Host.Outcome State Fault Refusal :=
  dispatchWrite .sty o s s.y

end Sys2Proof.Machine
end

