-- ==== Sys2Proof/Machine/Logical.lean ====
section
/-! DEFINITION. Logical: AND ORA EOR into A (spec/46_logical.md). Which operation each is, is the spec's general knowledge (log
10). -/

namespace Sys2Proof.Machine

/-- AND: A <- A & m, SetNZ (R180). -/
def execAnd (o : Operand) (s : State) : Host.Outcome State Fault Refusal :=
  dispatchRead .and o s (fun m => (s.setA (s.a &&& m)).setNZ (s.a &&& m))

/-- ORA: A <- A | m, SetNZ (R181). -/
def execOra (o : Operand) (s : State) : Host.Outcome State Fault Refusal :=
  dispatchRead .ora o s (fun m => (s.setA (s.a ||| m)).setNZ (s.a ||| m))

/-- EOR: A <- A ^ m, SetNZ (R182). -/
def execEor (o : Operand) (s : State) : Host.Outcome State Fault Refusal :=
  dispatchRead .eor o s (fun m => (s.setA (s.a ^^^ m)).setNZ (s.a ^^^ m))

end Sys2Proof.Machine
end

