-- ==== Sys2Proof/Machine/ShiftRotate.lean ====
section
/-! DEFINITION. Shift and rotate: ASL LSR ROL ROR on A or on memory (spec/47_shift_rotate.md). -/

namespace Sys2Proof.Machine

/-- Move the operand by one bit in its place, with C and SetNZ from the move (R190 to R193). -/
def shiftOperand (m : Mnemonic) (o : Operand) (s : State) (f : Byte → Bool → ShiftResult) :
    Host.Outcome State Fault Refusal :=
  dispatchModify m o s (fun v => (f v (s.flag .c)).result) (fun v t => t.setShiftFlags (f v (s.flag .c)))

/-- ASL: C <- v[7], v << 1 (R190). -/
def execAsl (o : Operand) (s : State) : Host.Outcome State Fault Refusal :=
  shiftOperand .asl o s shiftAsl

/-- LSR: C <- v[0], v >> 1 (R191). -/
def execLsr (o : Operand) (s : State) : Host.Outcome State Fault Refusal :=
  shiftOperand .lsr o s shiftLsr

/-- ROL: the 9-bit rotation left through C (R192). -/
def execRol (o : Operand) (s : State) : Host.Outcome State Fault Refusal :=
  shiftOperand .rol o s shiftRol

/-- ROR: the 9-bit rotation right through C (R193). -/
def execRor (o : Operand) (s : State) : Host.Outcome State Fault Refusal :=
  shiftOperand .ror o s shiftRor

end Sys2Proof.Machine
end

