-- ==== Sys2Proof/Machine/Stack.lean ====
section
/-! DEFINITION. The stack instructions: PHA PLA PHP PLP (spec/48_stack.md). -/

namespace Sys2Proof.Machine

/-- PHA: Push(A), no flag (R202). -/
def execPha (o : Operand) (s : State) : Host.Outcome State Fault Refusal :=
  dispatchImplied .pha o s (.proceed (s.push s.a))

/-- PLA: A <- Pop(), SetNZ (R203; SetNZ is decision D11, log 11). -/
def execPla (o : Operand) (s : State) : Host.Outcome State Fault Refusal :=
  dispatchImplied .pla o s (.proceed ((s.popState.setA s.popValue).setNZ s.popValue))

/-- PHP: Push(P | 0x30), no flag (R204). -/
def execPhp (o : Operand) (s : State) : Host.Outcome State Fault Refusal :=
  dispatchImplied .php o s (.proceed (s.push (pushedStatus s.p)))

/-- PLP: P <- Pop() & 0xCF (R205). -/
def execPlp (o : Operand) (s : State) : Host.Outcome State Fault Refusal :=
  dispatchImplied .plp o s (.proceed (s.popState.setP (pulledStatus s.popValue)))

end Sys2Proof.Machine
end

