-- ==== Sys2Proof/Machine/Transfer.lean ====
section
/-! DEFINITION. Register transfers: TAX TAY TXA TYA TSX TXS (spec/43_transfer.md). The source and destination pairs but
TAX's are the spec's general knowledge (log 10). -/

namespace Sys2Proof.Machine

/-- TAX: X <- A, SetNZ (R150). -/
def execTax (o : Operand) (s : State) : Host.Outcome State Fault Refusal :=
  dispatchImplied .tax o s (.proceed ((s.setX s.a).setNZ s.a))

/-- TAY: Y <- A, SetNZ (R151). -/
def execTay (o : Operand) (s : State) : Host.Outcome State Fault Refusal :=
  dispatchImplied .tay o s (.proceed ((s.setY s.a).setNZ s.a))

/-- TXA: A <- X, SetNZ (R152). -/
def execTxa (o : Operand) (s : State) : Host.Outcome State Fault Refusal :=
  dispatchImplied .txa o s (.proceed ((s.setA s.x).setNZ s.x))

/-- TYA: A <- Y, SetNZ (R153). -/
def execTya (o : Operand) (s : State) : Host.Outcome State Fault Refusal :=
  dispatchImplied .tya o s (.proceed ((s.setA s.y).setNZ s.y))

/-- TSX: X <- SP, SetNZ (R154). -/
def execTsx (o : Operand) (s : State) : Host.Outcome State Fault Refusal :=
  dispatchImplied .tsx o s (.proceed ((s.setX s.sp).setNZ s.sp))

/-- TXS: SP <- X, no flag (R155). -/
def execTxs (o : Operand) (s : State) : Host.Outcome State Fault Refusal :=
  dispatchImplied .txs o s (.proceed (s.setSp s.x))

end Sys2Proof.Machine
end

