-- ==== Sys2Proof/Machine/Dispatch.lean ====
section
/-! DEFINITION. One arm per instruction: the handler bound to its mnemonic (spec/41_engine_step.md R125). -/

namespace Sys2Proof.Machine

def exec (i : Instr) (s : State) : Host.Outcome State Fault Refusal :=
  match i with
  | .lda o => Sys2Proof.Machine.execLda o s
  | .ldx o => Sys2Proof.Machine.execLdx o s
  | .ldy o => Sys2Proof.Machine.execLdy o s
  | .sta o => Sys2Proof.Machine.execSta o s
  | .stx o => Sys2Proof.Machine.execStx o s
  | .sty o => Sys2Proof.Machine.execSty o s
  | .tax o => Sys2Proof.Machine.execTax o s
  | .tay o => Sys2Proof.Machine.execTay o s
  | .txa o => Sys2Proof.Machine.execTxa o s
  | .tya o => Sys2Proof.Machine.execTya o s
  | .tsx o => Sys2Proof.Machine.execTsx o s
  | .txs o => Sys2Proof.Machine.execTxs o s
  | .inc o => Sys2Proof.Machine.execInc o s
  | .dec o => Sys2Proof.Machine.execDec o s
  | .inx o => Sys2Proof.Machine.execInx o s
  | .iny o => Sys2Proof.Machine.execIny o s
  | .dex o => Sys2Proof.Machine.execDex o s
  | .dey o => Sys2Proof.Machine.execDey o s
  | .adc o => Sys2Proof.Machine.execAdc o s
  | .sbc o => Sys2Proof.Machine.execSbc o s
  | .and o => Sys2Proof.Machine.execAnd o s
  | .ora o => Sys2Proof.Machine.execOra o s
  | .eor o => Sys2Proof.Machine.execEor o s
  | .asl o => Sys2Proof.Machine.execAsl o s
  | .lsr o => Sys2Proof.Machine.execLsr o s
  | .rol o => Sys2Proof.Machine.execRol o s
  | .ror o => Sys2Proof.Machine.execRor o s
  | .pha o => Sys2Proof.Machine.execPha o s
  | .pla o => Sys2Proof.Machine.execPla o s
  | .php o => Sys2Proof.Machine.execPhp o s
  | .plp o => Sys2Proof.Machine.execPlp o s
  | .jmp o => Sys2Proof.Machine.execJmp o s
  | .bcc o => Sys2Proof.Machine.execBcc o s
  | .bcs o => Sys2Proof.Machine.execBcs o s
  | .beq o => Sys2Proof.Machine.execBeq o s
  | .bne o => Sys2Proof.Machine.execBne o s
  | .bmi o => Sys2Proof.Machine.execBmi o s
  | .bpl o => Sys2Proof.Machine.execBpl o s
  | .bvc o => Sys2Proof.Machine.execBvc o s
  | .bvs o => Sys2Proof.Machine.execBvs o s
  | .brk o => Sys2Proof.Machine.execBrk o s

end Sys2Proof.Machine
end

