-- ==== Sys2Proof/Machine/Engine.lean ====
section
/-! DEFINITION. Fetching an instruction's bytes, one step of the engine by any opcode table, and Run
(spec/41_engine_step.md). -/

namespace Sys2Proof.Machine

/-- The three bytes at pc0, pc0+1, pc0+2 modulo 65536 (R124; spec/30_encoding.md R82; logs 21, 22). An instruction
shorter than three bytes leaves the last ones unused; reads have no effect, so reading them changes nothing. -/
def fetchBytes (s : State) : List Byte :=
  [s.readByte s.pc, s.readByte (s.pc + 1), s.readByte (s.pc + 2)]

/-- Fetch and dispatch in run-state fetching (R123). -/
def fetchAndExec (T : OpcodeTable) (s : State) : Host.Outcome State Fault Refusal :=
  match decodeWith T (fetchBytes s) with
  | .ok (i, _) => exec i s
  | .error _ => .next (s.raise (.unimplementedOpcode (s.readByte s.pc) s.pc))

/-- Step() by a table: one instruction in run-state fetching (R123); nothing in halted and faulted (R130, log 3);
refused in reset (R130) and in dispatching, which no call finds (R121, log 4). -/
def stepWith (T : OpcodeTable) (s : State) : Host.Outcome State Fault Refusal :=
  match s.run with
  | .fetching => fetchAndExec T s
  | .halted => .next s
  | .faulted => .next s
  | .reset => .refused .stepBeforeReset
  | .dispatching => .refused .stepWhileDispatching

/-- Run() for at most n steps: step while the run-state is fetching (R129); in another run-state Run() does what Step()
does, nothing or a refusal (R130). Run() itself is unbounded (log 19). -/
def runFor (T : OpcodeTable) : Nat → State → Host.Outcome State Fault Refusal
  | 0, s => if s.run = .fetching then .next s else stepWith T s
  | n + 1, s =>
    if s.run = .fetching then
      match stepWith T s with
      | .next t => runFor T n t
      | .fault r => .fault r
      | .refused r => .refused r
    else stepWith T s

/-- What Step() and Run() report: the run-state and the fault record (spec/70_reset_and_hazards.md R267). -/
def State.report (s : State) : RunState × Option Fault := (s.run, s.fault)

end Sys2Proof.Machine
end

