-- ==== Sys2Proof/Machine/Step.lean ====
section
/-! DEFINITION. One step of the machine with the default opcode table, and a state whose next step runs a given
instruction. -/

namespace Sys2Proof.Machine

/-- Step() with the default OPCODE_TABLE (spec/41_engine_step.md R122, R123; spec/00_scope.md R6). -/
def step (s : State) : Host.Outcome State Fault Refusal := stepWith defaultTable s

/-- A state with the instruction whose bits are w stored at PC, ready to be stepped: run-state fetching, record empty
(log 5). -/
def State.withFetchWord (s : State) (nbits w : Nat) : State :=
  ((s.writeBytes s.pc (bytesOfTableWord nbits w)).setRun .fetching).setFault none

end Sys2Proof.Machine
end

