-- ==== Sys2Proof/Machine/HostCalls.lean ====
section
/-! DEFINITION. The host's side of the interface: Load, Reset, Step, Run and the poke accessors, each a call made between
steps (spec/70_reset_and_hazards.md R266 to R269). -/

namespace Sys2Proof.Machine

/-- Load(bytes): the image from LOAD_ADDR on, then LOAD_ADDR into the reset vector, which wins (R263, log 17). -/
def State.load (s : State) (loadAddr : Word) (bytes : List Byte) : State :=
  (s.writeBytes loadAddr bytes).writeWord resetVector loadAddr

/-- A call the host may make between steps. Inspection is no call: it changes nothing (R268). Run is cut after a number
of steps (log 19). -/
inductive HostCall where
  | load (bytes : List Byte)
  | reset
  | step
  | run (steps : Nat)
  | pokeA (v : Byte)
  | pokeX (v : Byte)
  | pokeY (v : Byte)
  | pokeSp (v : Byte)
  | pokePc (w : Word)
  | pokeP (v : Byte)
  | setFlag (f : Flag)
  | clearFlag (f : Flag)
  | pokeByte (addr : Word) (v : Byte)
  | pokeWord (addr : Word) (w : Word)
  deriving DecidableEq, Repr

/-- What a call does on a machine with these parameters. A poke changes the named cell, register or flag only (R268). -/
def hostCall (cfg : Config) (call : HostCall) (s : State) : Host.Outcome State Fault Refusal :=
  match call with
  | .load bytes => if bytes.length ≤ 65536 then .next (s.load cfg.loadAddr bytes) else .refused .imageTooLong
  | .reset => .next s.doReset
  | .step =>
    match tableOfRows cfg.opcodeRows with
    | some T => stepWith T s
    | none => .refused .illegalOpcodeTable
  | .run steps =>
    match tableOfRows cfg.opcodeRows with
    | some T => runFor T steps s
    | none => .refused .illegalOpcodeTable
  | .pokeA v => .next (s.setA v)
  | .pokeX v => .next (s.setX v)
  | .pokeY v => .next (s.setY v)
  | .pokeSp v => .next (s.setSp v)
  | .pokePc w => .next (s.setPc w)
  | .pokeP v => .next (s.setP v)
  | .setFlag f => .next (s.setP (putFlag s.p f true))
  | .clearFlag f => .next (s.setP (putFlag s.p f false))
  | .pokeByte addr v => .next (s.writeByte addr v)
  | .pokeWord addr w => .next (s.writeWord addr w)

end Sys2Proof.Machine
end

