-- ==== Sys2Proof/Safety.lean ====
section
/-! DEFINITION. The terms claims are stated in: the invariants of the machine, and how a run ends. -/

namespace Sys2Proof.Machine

/-- The memory is in its canonical form. -/
abbrev State.MemoryCanonical (s : State) : Prop := Memory.wf s.mem

/-- Between steps the run-state is not dispatching, and the fault record is empty in every run-state but faulted, where
it holds a fault (spec/10_state.md R40, R41). -/
abbrev State.RunStateConsistent (s : State) : Prop :=
  s.run ≠ .dispatching ∧ (s.fault.isSome = true ↔ s.run = .faulted)

/-- The live Break and Unused flags are clear (spec/10_state.md R36). -/
abbrev State.BreakUnusedClear (s : State) : Prop := s.flag .b = false ∧ s.flag .u = false

/-- What holds at every step boundary of a machine whose P the host does not poke. -/
abbrev State.Inv (s : State) : Prop := s.MemoryCanonical ∧ s.RunStateConsistent ∧ s.BreakUnusedClear

/-- The clean end of a run (spec/41_engine_step.md R131). -/
abbrev State.CleanEnd (s : State) : Prop := s.run = .halted

/-- The bad end of a run (R131). -/
abbrev State.BadEnd (s : State) : Prop := s.run = .faulted

/-- Run() from s returns, with the machine in t (R129, R131). -/
def Returns (T : OpcodeTable) (s t : State) : Prop :=
  ∃ n, runFor T n s = .next t ∧ (t.CleanEnd ∨ t.BadEnd)

end Sys2Proof.Machine
end

