-- ==== Sys2Proof/Certificates/Slice0/Obligations.lean ====
section
/-! DEFINITION. The statements for the provers, in the order of spec/: encoding, addressing, memory and flags, the
instructions family by family, the rules of the whole machine, reset and host. First the words they are made of. -/

namespace Sys2Proof.Claims

open Sys2Proof.Machine

/-! ### Words for results and frames -/

/-- exec i s answers a next state of which post holds. -/
def NextState (i : Instr) (s : State) (post : State → Prop) : Prop := ∃ t, exec i s = .next t ∧ post t

/-- The four 8-bit registers of t. -/
def Registers (t : State) (a x y sp : Byte) : Prop := t.a = a ∧ t.x = x ∧ t.y = y ∧ t.sp = sp

/-- Every byte of memory reads as before. -/
def MemoryKept (s t : State) : Prop := ∀ k, t.readByte k = s.readByte k

/-- One byte is stored at ea and every byte outside it reads as before. -/
def MemoryStored (s t : State) (ea : Word) (v : Byte) : Prop :=
  t.readByte ea = v ∧ ∀ k, k ≠ ea → t.readByte k = s.readByte k

/-- Z and N come from v, the six other flags are as before (spec/10_state.md R31). -/
def FlagsNZ (s t : State) (v : Byte) : Prop :=
  t.flag .z = decide (v.toNat = 0) ∧ t.flag .n = decide (128 ≤ v.toNat) ∧
  ∀ f, f ≠ .z → f ≠ .n → t.flag f = s.flag f

/-- C is c, Z and N come from v, the five other flags are as before. -/
def FlagsCNZ (s t : State) (c : Bool) (v : Byte) : Prop :=
  t.flag .c = c ∧ t.flag .z = decide (v.toNat = 0) ∧ t.flag .n = decide (128 ≤ v.toNat) ∧
  ∀ f, f ≠ .c → f ≠ .z → f ≠ .n → t.flag f = s.flag f

/-- C is c, V is v, Z and N come from r, the four other flags are as before. -/
def FlagsCVNZ (s t : State) (c v : Bool) (r : Byte) : Prop :=
  t.flag .c = c ∧ t.flag .v = v ∧ t.flag .z = decide (r.toNat = 0) ∧ t.flag .n = decide (128 ≤ r.toNat) ∧
  ∀ f, f ≠ .c → f ≠ .v → f ≠ .z → f ≠ .n → t.flag f = s.flag f

/-- PC moved on by the instruction's length modulo 65536, the machine goes on, the fault record is as before. -/
def Advanced (s t : State) (length : Nat) : Prop :=
  t.pc.toNat = (s.pc.toNat + length) % 65536 ∧ t.run = .fetching ∧ t.fault = s.fault

/-- PC is the target modulo 65536, the machine goes on, the fault record is as before. -/
def Redirected (s t : State) (target : Int) : Prop :=
  (t.pc.toNat : Int) = target % 65536 ∧ t.run = .fetching ∧ t.fault = s.fault

/-- An operand of class IMM or MEM: every form a load or an accumulator operation services (R117). -/
def ReadableForm (o : Operand) : Prop := operandClass o.mode = .imm ∨ operandClass o.mode = .mem

/-- An operand of class MEM: every form a store, INC or DEC services (R117). -/
def MemoryForm (o : Operand) : Prop := operandClass o.mode = .mem

/-- An operand of class ACC or MEM: every form a shift services (R117). -/
def ShiftForm (o : Operand) : Prop := operandClass o.mode = .acc ∨ operandClass o.mode = .mem

/-- The place an operand resolves to holds r: A in Accumulator mode, else the byte at its effective address; the other
registers and every other byte are as before. -/
def OperandStored (o : Operand) (s t : State) (r : Byte) : Prop :=
  t.x = s.x ∧ t.y = s.y ∧ t.sp = s.sp ∧
  match resolve o s with
  | .acc => t.a = r ∧ MemoryKept s t
  | .addr ea => t.a = s.a ∧ MemoryStored s t ea r
  | .noOperand => False
  | .imm _ => False
  | .target _ => False

/-- The byte at a Nat address. -/
def byteAt (s : State) (k : Nat) : Nat := (Memory.read s.mem k).toNat

/-- The state after a fault is taken: run-state and record, nothing else. -/
def faultState (s : State) (f : Fault) : State := { s with run := .faulted, fault := some f }

/-! ### Tables of the spec the whole-machine rules use -/

/-- The 132 bytes that do not decode (spec/30_encoding.md R88). -/
def absentBytes : List Byte :=
  [0x02, 0x03, 0x04, 0x07, 0x0B, 0x0C, 0x0F, 0x12, 0x13, 0x14, 0x17, 0x18, 0x1A, 0x1B, 0x1C, 0x1F, 0x20, 0x22, 0x23,
   0x24, 0x27, 0x2B, 0x2C, 0x2F, 0x32, 0x33, 0x34, 0x37, 0x38, 0x3A, 0x3B, 0x3C, 0x3F, 0x40, 0x42, 0x43, 0x44] ++
  [0x47, 0x4B, 0x4F, 0x52, 0x53, 0x54, 0x57, 0x58, 0x5A, 0x5B, 0x5C, 0x5F, 0x60, 0x62, 0x63, 0x64, 0x67, 0x6B, 0x6F,
   0x72, 0x73, 0x74, 0x77, 0x78, 0x7A, 0x7B, 0x7C, 0x7F, 0x80, 0x82, 0x83, 0x87, 0x89, 0x8B, 0x8F, 0x92, 0x93] ++
  [0x97, 0x9B, 0x9C, 0x9E, 0x9F, 0xA3, 0xA7, 0xAB, 0xAF, 0xB2, 0xB3, 0xB7, 0xB8, 0xBB, 0xBF, 0xC0, 0xC1, 0xC2, 0xC3,
   0xC4, 0xC5, 0xC7, 0xC9, 0xCB, 0xCC, 0xCD, 0xCF, 0xD1, 0xD2, 0xD3, 0xD4, 0xD5, 0xD7, 0xD8, 0xD9, 0xDA, 0xDB] ++
  [0xDC, 0xDD, 0xDF, 0xE0, 0xE2, 0xE3, 0xE4, 0xE7, 0xEA, 0xEB, 0xEC, 0xEF, 0xF2, 0xF3, 0xF4, 0xF7, 0xF8, 0xFA, 0xFB,
   0xFC, 0xFF]

/-- The eight modes of class MEM (R114). -/
def memModes : List AddressingMode :=
  [.zeroPage, .zeroPageX, .zeroPageY, .absolute, .absoluteX, .absoluteY, .indirectX, .indirectY]

/-- The modes each handler services, written out (R117). -/
def servicedModes : Mnemonic → List AddressingMode
  | .lda | .ldx | .ldy | .adc | .sbc | .and | .ora | .eor => .immediate :: memModes
  | .sta | .stx | .sty | .inc | .dec => memModes
  | .asl | .lsr | .rol | .ror => .accumulator :: memModes
  | .tax | .tay | .txa | .tya | .tsx | .txs | .inx | .iny | .dex | .dey | .pha | .pla | .php | .plp | .brk => [.implied]
  | .jmp => [.absolute, .indirect]
  | .bcc | .bcs | .beq | .bne | .bmi | .bpl | .bvc | .bvs => [.relative]

/-- The flags each instruction writes (spec/10_state.md R37). -/
def flagsWritten : Mnemonic → List Flag
  | .lda | .ldx | .ldy | .tax | .tay | .txa | .tya | .tsx | .inc | .dec | .inx | .iny | .dex | .dey
  | .and | .ora | .eor | .pla => [.n, .z]
  | .sta | .stx | .sty | .txs | .pha | .php => []
  | .adc | .sbc => [.n, .v, .z, .c]
  | .asl | .lsr | .rol | .ror => [.n, .z, .c]
  | .plp => [.n, .v, .u, .b, .d, .i, .z, .c]
  | .jmp | .bcc | .bcs | .beq | .bne | .bmi | .bpl | .bvc | .bvs | .brk => []

/-- Whether a branch is taken (spec/49_control_flow_halt.md R212 to R219; decision D3). -/
def branchTaken (m : Mnemonic) (s : State) : Bool :=
  (m == .bcc && !s.flag .c) || (m == .bcs && s.flag .c) || (m == .beq && s.flag .z) || (m == .bne && !s.flag .z) ||
  (m == .bmi && s.flag .n) || (m == .bpl && !s.flag .n) || (m == .bvc && !s.flag .v) || (m == .bvs && s.flag .v)

/-- The address a handler sets PC to, where it redirects: JMP always, a branch when it is taken (R126). -/
def redirectTarget (m : Mnemonic) (o : Operand) (s : State) : Option Word :=
  match resolve o s with
  | .addr ea => if m = .jmp then some ea else none
  | .target t => if branchTaken m s then some t else none
  | .noOperand => none
  | .acc => none
  | .imm _ => none

/-- The address an instruction stores to, where it stores: the effective address of STA STX STY, of INC DEC and of the
memory forms of the shifts; the cell SP names for PHA and PHP. -/
def storeAddress (m : Mnemonic) (o : Operand) (s : State) : Option Word :=
  if m ∈ [.sta, .stx, .sty, .inc, .dec, .asl, .lsr, .rol, .ror] then
    match resolve o s with
    | .addr ea => some ea
    | .noOperand => none
    | .acc => none
    | .imm _ => none
    | .target _ => none
  else if m ∈ [.pha, .php] then some (0x0100 + zext16 s.sp)
  else none

/-- The flags an instruction can act on: the other four are storage (spec/10_state.md R33 to R36). -/
def activeFlags : List Flag := [.c, .z, .v, .n]

/-- An instruction executed n times over. -/
def execTimes (i : Instr) : Nat → State → Host.Outcome State Fault Refusal
  | 0, s => .next s
  | n + 1, s =>
    match exec i s with
    | .next t => execTimes i n t
    | .fault r => .fault r
    | .refused r => .refused r

/-- A list of bytes pushed, first byte first. -/
def pushAll : List Byte → State → State
  | [], s => s
  | v :: vs, s => pushAll vs (s.push v)

/-- n bytes popped, in the order they come, with the state after. -/
def popAll : Nat → State → List Byte × State
  | 0, s => ([], s)
  | n + 1, s => (s.popValue :: (popAll n s.popState).1, (popAll n s.popState).2)

end Sys2Proof.Claims

open Sys2Proof Sys2Proof.Machine Sys2Proof.Claims

/-! ### Encoding (spec/30_encoding.md) -/

/-- Decoding the bytes of a well-formed instruction gives it back, whatever follows, and there are as many bytes as its
length says. -/
def Obligations.DecodeOfEncode : Prop :=
  ∀ (i : Instr) (rest : List Byte), i.WellFormed →
    ∃ bs, encode i = some bs ∧ bs.length = i.length ∧ decode (bs ++ rest) = .ok (i, rest)

/-- Bytes that decode are the encoding of a well-formed instruction: every word has one meaning. -/
def Obligations.EncodeOfDecode : Prop :=
  ∀ (bs : List Byte) (i : Instr) (rest : List Byte), decode bs = .ok (i, rest) →
    i.WellFormed ∧ ∃ pre, encode i = some pre ∧ bs = pre ++ rest

/-- One written-out word of each family decodes to its instruction (R86, R91, 93 G1: general knowledge). -/
def Obligations.WrittenWordsDecode : Prop :=
  decode [0b10101001, 0b00000101] = .ok (.lda (.immediate 0x05), []) ∧
  decode [0b10010110, 0b11111111] = .ok (.stx (.zeroPageY 0xFF), []) ∧
  decode [0b10101010] = .ok (.tax .implied, []) ∧
  decode [0b11001110, 0b00000000, 0b00000011] = .ok (.dec (.absolute 0x0300), []) ∧
  decode [0b01110001, 0b01000000] = .ok (.adc (.indirectY 0x40), []) ∧
  decode [0b01011001, 0b00000000, 0b00000010] = .ok (.eor (.absoluteY 0x0200), []) ∧
  decode [0b01101010] = .ok (.ror .accumulator, []) ∧
  decode [0b00101000] = .ok (.plp .implied, []) ∧
  decode [0b01101100, 0b11111111, 0b00000010] = .ok (.jmp (.indirect 0x02FF), []) ∧
  decode [0b11010000, 0b11111011] = .ok (.bne (.relative 0xFB), []) ∧
  decode [0b00000000] = .ok (.brk .implied, [])

/-- Decode(b) is the row whose opcode byte is b, where a table has one; where it has none, nothing, and the step that
fetches b raises UnimplementedOpcode(b, pc0). -/
def Obligations.DecodeIsOneTableLookup : Prop :=
  ∀ (T : OpcodeTable) (b : Byte),
    (∀ d ∈ T.rows, d.opcodeByte = b → lookupOpcode T b = some d) ∧
    ((∀ d ∈ T.rows, d.opcodeByte ≠ b) → lookupOpcode T b = none ∧
      ∀ s : State, s.run = .fetching → s.readByte s.pc = b →
        stepWith T s = .next (faultState s (.unimplementedOpcode b s.pc)))

/-- The bytes that do not decode are exactly the 132 of R88 (R86, decisions D2 and D5). -/
def Obligations.AbsentBytesDoNotDecode : Prop :=
  absentBytes.length = 132 ∧
  ∀ (b : Byte) (rest : List Byte), decode (b :: rest) = .error (.unimplementedOpcode b) ↔ b ∈ absentBytes

/-- What a step runs: the row of the byte at PC gives mnemonic, mode and length, and the operand bytes are the ones at
pc0+1 and pc0+2, as many as the length leaves. -/
def Obligations.OperandBytesFollowTheOpcode : Prop :=
  ∀ (T : OpcodeTable) (s : State) (i : Instr) (rest : List Byte), decodeWith T (fetchBytes s) = .ok (i, rest) →
    (∃ d ∈ T.rows, d.opcodeByte = s.readByte s.pc ∧ d.mnemonic = i.mnemonic ∧ d.addressingMode = i.operand.mode ∧
      d.instructionLength = i.length) ∧
    encodeOperand i.operand = [s.readByte (s.pc + 1), s.readByte (s.pc + 2)].take (i.length - 1)

/-! ### The addressing modes (spec/40_addressing_modes.md) -/

/-- ZeroPage, ZeroPageX and ZeroPageY: the sum wraps modulo 256 and the address stays in the zero page. -/
def Obligations.ZeroPageModesWrapAt256 : Prop :=
  ∀ (b : Byte) (s : State),
    (∃ ea, resolve (.zeroPage b) s = .addr ea ∧ ea.toNat = b.toNat ∧ ea.toNat ≤ 0x00FF) ∧
    (∃ ea, resolve (.zeroPageX b) s = .addr ea ∧ ea.toNat = (b.toNat + s.x.toNat) % 256 ∧ ea.toNat ≤ 0x00FF) ∧
    (∃ ea, resolve (.zeroPageY b) s = .addr ea ∧ ea.toNat = (b.toNat + s.y.toNat) % 256 ∧ ea.toNat ≤ 0x00FF) ∧
    (Operand.zeroPage b).length = 2 ∧ (Operand.zeroPageX b).length = 2 ∧ (Operand.zeroPageY b).length = 2

/-- Absolute, AbsoluteX and AbsoluteY: the operand word, and its sum with the index modulo 65536. -/
def Obligations.AbsoluteModesWrapAt65536 : Prop :=
  ∀ (w : Word) (s : State),
    resolve (.absolute w) s = .addr w ∧
    (∃ ea, resolve (.absoluteX w) s = .addr ea ∧ ea.toNat = (w.toNat + s.x.toNat) % 65536) ∧
    (∃ ea, resolve (.absoluteY w) s = .addr ea ∧ ea.toNat = (w.toNat + s.y.toNat) % 65536) ∧
    (Operand.absolute w).length = 3 ∧ (Operand.absoluteX w).length = 3 ∧ (Operand.absoluteY w).length = 3

/-- IndirectX: X is added before the pointer is read; both pointer bytes lie in the zero page. -/
def Obligations.IndirectXReadsZeroPagePointer : Prop :=
  ∀ (b : Byte) (s : State), ∃ ea, resolve (.indirectX b) s = .addr ea ∧
    ea.toNat = 256 * byteAt s ((b.toNat + s.x.toNat + 1) % 256) + byteAt s ((b.toNat + s.x.toNat) % 256) ∧
    (Operand.indirectX b).length = 2

/-- IndirectY: both pointer bytes lie in the zero page; Y is added to the whole pointer, modulo 65536. -/
def Obligations.IndirectYAddsIndexToPointer : Prop :=
  ∀ (b : Byte) (s : State), ∃ ea, resolve (.indirectY b) s = .addr ea ∧
    ea.toNat = (256 * byteAt s ((b.toNat + 1) % 256) + byteAt s b.toNat + s.y.toNat) % 65536 ∧
    (Operand.indirectY b).length = 2

/-- Indirect: the pointer's high byte comes from the pointer's own page (decision D8, log 14). -/
def Obligations.IndirectStaysInPointerPage : Prop :=
  ∀ (w : Word) (s : State), ∃ ea, resolve (.indirect w) s = .addr ea ∧
    ea.toNat = 256 * byteAt s (w.toNat / 256 * 256 + (w.toNat + 1) % 256) + byteAt s w.toNat ∧
    (w.toNat % 256 ≠ 255 → ea = s.readWord w) ∧ (Operand.indirect w).length = 3

/-- Relative: the signed displacement from the address after the 2-byte instruction, modulo 65536; only the eight
branches service it (which handlers service a mode: decision D17, log 16; which branches there are: decision D3, log
9). -/
def Obligations.RelativeTargetFromNextInstruction : Prop :=
  ∀ (d : Byte) (s : State),
    (∃ t, resolve (.relative d) s = .target t ∧ (t.toNat : Int) = (s.pc.toNat + 2 + d.toInt) % 65536) ∧
    (Operand.relative d).length = 2 ∧
    ∀ m, services m .relative = true ↔ m ∈ [Mnemonic.bcc, .bcs, .beq, .bne, .bmi, .bpl, .bvc, .bvs]

/-! ### Memory and flags (spec/20_memory.md, spec/10_state.md) -/

/-- writeByte sets the cell at the address and changes nothing else; readByte gives the cell. -/
def Obligations.ReadByteAfterWriteByte : Prop :=
  ∀ (s : State) (addr k : Word) (v : Byte),
    (s.writeByte addr v).readByte k = (if k = addr then v else s.readByte k) ∧
    ∃ m, s.writeByte addr v = { s with mem := m }

/-- readWord is little-endian and its second address wraps modulo 65536; writeWord is its inverse. -/
def Obligations.WordAccessIsLittleEndian : Prop :=
  ∀ (s : State) (addr w : Word),
    (s.readWord addr).toNat = 256 * byteAt s ((addr.toNat + 1) % 65536) + byteAt s addr.toNat ∧
    (s.writeWord addr w).readWord addr = w ∧
    (∀ k, k ≠ addr → k ≠ addr + 1 → (s.writeWord addr w).readByte k = s.readByte k) ∧
    ∃ m, s.writeWord addr w = { s with mem := m }

/-- Two canonical memories that read alike at every address are the same data (the model's own representation, log 6). -/
def Obligations.CanonicalMemoriesAreDetermined : Prop :=
  ∀ m m' : Memory, Memory.wf m → Memory.wf m' → (∀ k, Memory.read m k = Memory.read m' k) → m = m'

/-- SetNZ: Z iff the value is 0, N iff its bit 7 is set, no other bit changes, and never both. -/
def Obligations.SetNZFollowsTheValue : Prop :=
  ∀ (s : State) (v : Byte),
    FlagsNZ s (s.setNZ v) v ∧ ¬((s.setNZ v).flag .z = true ∧ (s.setNZ v).flag .n = true) ∧
    ∃ q, s.setNZ v = { s with p := q }

/-- SetFlag ors in the flag's bit, ClearFlag ands with its complement, IsFlagSet tests it: one bit each, and the host's
calls are these with nothing beyond the status byte. -/
def Obligations.FlagAccessorsTouchOneBit : Prop :=
  ∀ (p : Byte) (f : Flag),
    putFlag p f true = p ||| BitVec.ofNat 8 (2 ^ f.bit) ∧
    putFlag p f false = p &&& ~~~BitVec.ofNat 8 (2 ^ f.bit) ∧
    (getFlag p f = true ↔ p &&& BitVec.ofNat 8 (2 ^ f.bit) ≠ 0) ∧
    (∀ b g, getFlag (putFlag p f b) g = if g = f then b else getFlag p g) ∧
    ∀ (cfg : Config) (s : State),
      hostCall cfg (.setFlag f) s = .next { s with p := putFlag s.p f true } ∧
      hostCall cfg (.clearFlag f) s = .next { s with p := putFlag s.p f false } ∧ s.flag f = getFlag s.p f

/-! ### Load, store, transfer (spec/42_load_store.md, spec/43_transfer.md) -/

/-- LDA LDX LDY in every form: the operand goes to the register, Z and N from it, nothing else. -/
def Obligations.LoadsWriteTheirRegister : Prop :=
  ∀ (o : Operand) (s : State), ReadableForm o → ∃ v, operandRead (resolve o s) s = some v ∧
    NextState (.lda o) s (fun t => Registers t v s.x s.y s.sp ∧ FlagsNZ s t v ∧ MemoryKept s t ∧ Advanced s t o.length) ∧
    NextState (.ldx o) s (fun t => Registers t s.a v s.y s.sp ∧ FlagsNZ s t v ∧ MemoryKept s t ∧ Advanced s t o.length) ∧
    NextState (.ldy o) s (fun t => Registers t s.a s.x v s.sp ∧ FlagsNZ s t v ∧ MemoryKept s t ∧ Advanced s t o.length)

/-- STA STX STY in every form: one byte stored at the effective address, no flag, no register. -/
def Obligations.StoresWriteOneByte : Prop :=
  ∀ (o : Operand) (s : State), MemoryForm o → ∃ ea, resolve o s = .addr ea ∧
    NextState (.sta o) s (fun t =>
      Registers t s.a s.x s.y s.sp ∧ t.p = s.p ∧ MemoryStored s t ea s.a ∧ Advanced s t o.length) ∧
    NextState (.stx o) s (fun t =>
      Registers t s.a s.x s.y s.sp ∧ t.p = s.p ∧ MemoryStored s t ea s.x ∧ Advanced s t o.length) ∧
    NextState (.sty o) s (fun t =>
      Registers t s.a s.x s.y s.sp ∧ t.p = s.p ∧ MemoryStored s t ea s.y ∧ Advanced s t o.length)

/-- The six transfers: destination from source, Z and N from it but for TXS (pairs: general knowledge, log 10). -/
def Obligations.TransfersCopyOneRegister : Prop :=
  ∀ s : State,
    NextState (.tax .implied) s (fun t => Registers t s.a s.a s.y s.sp ∧ FlagsNZ s t s.a ∧ MemoryKept s t ∧ Advanced s t 1) ∧
    NextState (.tay .implied) s (fun t => Registers t s.a s.x s.a s.sp ∧ FlagsNZ s t s.a ∧ MemoryKept s t ∧ Advanced s t 1) ∧
    NextState (.txa .implied) s (fun t => Registers t s.x s.x s.y s.sp ∧ FlagsNZ s t s.x ∧ MemoryKept s t ∧ Advanced s t 1) ∧
    NextState (.tya .implied) s (fun t => Registers t s.y s.x s.y s.sp ∧ FlagsNZ s t s.y ∧ MemoryKept s t ∧ Advanced s t 1) ∧
    NextState (.tsx .implied) s (fun t => Registers t s.a s.sp s.y s.sp ∧ FlagsNZ s t s.sp ∧ MemoryKept s t ∧ Advanced s t 1) ∧
    NextState (.txs .implied) s (fun t => Registers t s.a s.x s.y s.x ∧ t.p = s.p ∧ MemoryKept s t ∧ Advanced s t 1)

/-! ### Increment and decrement (spec/44_inc_dec.md) -/

/-- INC and DEC in every form: the byte at the effective address plus or minus 1 modulo 256, Z and N from it, C and V
and every register as before. -/
def Obligations.IncDecStepOneByteOfMemory : Prop :=
  ∀ (o : Operand) (s : State), MemoryForm o → ∃ ea, resolve o s = .addr ea ∧
    NextState (.inc o) s (fun t => ∃ r : Byte, r.toNat = ((s.readByte ea).toNat + 1) % 256 ∧
      Registers t s.a s.x s.y s.sp ∧ FlagsNZ s t r ∧ MemoryStored s t ea r ∧ Advanced s t o.length) ∧
    NextState (.dec o) s (fun t => ∃ r : Byte, r.toNat = ((s.readByte ea).toNat + 255) % 256 ∧
      Registers t s.a s.x s.y s.sp ∧ FlagsNZ s t r ∧ MemoryStored s t ea r ∧ Advanced s t o.length)

/-- INX INY DEX DEY: the named register plus or minus 1 modulo 256, Z and N from it, nothing else. -/
def Obligations.IncDecStepOneRegister : Prop :=
  ∀ s : State,
    NextState (.inx .implied) s (fun t => ∃ r : Byte, r.toNat = (s.x.toNat + 1) % 256 ∧
      Registers t s.a r s.y s.sp ∧ FlagsNZ s t r ∧ MemoryKept s t ∧ Advanced s t 1) ∧
    NextState (.iny .implied) s (fun t => ∃ r : Byte, r.toNat = (s.y.toNat + 1) % 256 ∧
      Registers t s.a s.x r s.sp ∧ FlagsNZ s t r ∧ MemoryKept s t ∧ Advanced s t 1) ∧
    NextState (.dex .implied) s (fun t => ∃ r : Byte, r.toNat = (s.x.toNat + 255) % 256 ∧
      Registers t s.a r s.y s.sp ∧ FlagsNZ s t r ∧ MemoryKept s t ∧ Advanced s t 1) ∧
    NextState (.dey .implied) s (fun t => ∃ r : Byte, r.toNat = (s.y.toNat + 255) % 256 ∧
      Registers t s.a s.x r s.sp ∧ FlagsNZ s t r ∧ MemoryKept s t ∧ Advanced s t 1)

/-! ### Arithmetic and logic (spec/45_arithmetic.md, spec/46_logical.md) -/

/-- ADC in every form: the sum modulo 256, C iff it passes 255, V iff the signed sum leaves -128..127, whatever D is. -/
def Obligations.AdcAddsWithCarry : Prop :=
  ∀ (o : Operand) (s : State), ReadableForm o → ∃ m, operandRead (resolve o s) s = some m ∧
    NextState (.adc o) s (fun t => ∃ r : Byte, r.toNat = (s.a.toNat + m.toNat + (s.flag .c).toNat) % 256 ∧
      Registers t r s.x s.y s.sp ∧ MemoryKept s t ∧ Advanced s t o.length ∧
      FlagsCVNZ s t (decide (255 < s.a.toNat + m.toNat + (s.flag .c).toNat))
        (decide (s.a.toInt + m.toInt + (s.flag .c).toNat < -128 ∨ 127 < s.a.toInt + m.toInt + (s.flag .c).toNat)) r)

/-- SBC in every form: the difference modulo 256, C iff there is no borrow, V iff the signed difference leaves -128..127
(V and the polarity of C: decision D10, log 12). -/
def Obligations.SbcSubtractsWithBorrow : Prop :=
  ∀ (o : Operand) (s : State), ReadableForm o → ∃ m, operandRead (resolve o s) s = some m ∧
    NextState (.sbc o) s (fun t => ∃ r : Byte,
      (r.toNat : Int) = ((s.a.toNat : Int) - m.toNat - (1 - (s.flag .c).toNat)) % 256 ∧
      Registers t r s.x s.y s.sp ∧ MemoryKept s t ∧ Advanced s t o.length ∧
      FlagsCVNZ s t (decide (0 ≤ (s.a.toNat : Int) - m.toNat - (1 - (s.flag .c).toNat)))
        (decide (s.a.toInt - m.toInt - (1 - (s.flag .c).toNat) < -128 ∨
          127 < s.a.toInt - m.toInt - (1 - (s.flag .c).toNat))) r)

/-- AND ORA EOR in every form: the bitwise result in A, Z and N from it, nothing else (which operation each is: general
knowledge, log 10). -/
def Obligations.LogicalOperationsOnAccumulator : Prop :=
  ∀ (o : Operand) (s : State), ReadableForm o → ∃ m, operandRead (resolve o s) s = some m ∧
    NextState (.and o) s (fun t => ∃ r : Byte, (∀ k, r.getLsbD k = (s.a.getLsbD k && m.getLsbD k)) ∧
      Registers t r s.x s.y s.sp ∧ FlagsNZ s t r ∧ MemoryKept s t ∧ Advanced s t o.length) ∧
    NextState (.ora o) s (fun t => ∃ r : Byte, (∀ k, r.getLsbD k = (s.a.getLsbD k || m.getLsbD k)) ∧
      Registers t r s.x s.y s.sp ∧ FlagsNZ s t r ∧ MemoryKept s t ∧ Advanced s t o.length) ∧
    NextState (.eor o) s (fun t => ∃ r : Byte, (∀ k, r.getLsbD k = (s.a.getLsbD k != m.getLsbD k)) ∧
      Registers t r s.x s.y s.sp ∧ FlagsNZ s t r ∧ MemoryKept s t ∧ Advanced s t o.length)

/-! ### Shift and rotate (spec/47_shift_rotate.md) -/

/-- ASL LSR ROL ROR in every form, on A or on memory: the operand moved by one bit in its place, C the outgoing bit, the
old C coming in for the rotates, Z and N from the result (which mnemonic is which: general knowledge, log 10). -/
def Obligations.ShiftsMoveOneBit : Prop :=
  ∀ (o : Operand) (s : State), ShiftForm o → ∃ v, operandRead (resolve o s) s = some v ∧
    NextState (.asl o) s (fun t => ∃ r : Byte, r.toNat = 2 * v.toNat % 256 ∧
      OperandStored o s t r ∧ FlagsCNZ s t (decide (128 ≤ v.toNat)) r ∧ Advanced s t o.length) ∧
    NextState (.lsr o) s (fun t => ∃ r : Byte, r.toNat = v.toNat / 2 ∧
      OperandStored o s t r ∧ FlagsCNZ s t (decide (v.toNat % 2 = 1)) r ∧ Advanced s t o.length) ∧
    NextState (.rol o) s (fun t => ∃ r : Byte, r.toNat = 2 * v.toNat % 256 + (s.flag .c).toNat ∧
      OperandStored o s t r ∧ FlagsCNZ s t (decide (128 ≤ v.toNat)) r ∧ Advanced s t o.length) ∧
    NextState (.ror o) s (fun t => ∃ r : Byte, r.toNat = v.toNat / 2 + 128 * (s.flag .c).toNat ∧
      OperandStored o s t r ∧ FlagsCNZ s t (decide (v.toNat % 2 = 1)) r ∧ Advanced s t o.length)

/-- Nine rotations of A in one direction restore A and C: a 9-bit rotation. -/
def Obligations.NineRotationsRestore : Prop :=
  ∀ s : State,
    (∃ t, execTimes (.rol .accumulator) 9 s = .next t ∧ t.a = s.a ∧ t.flag .c = s.flag .c) ∧
    (∃ t, execTimes (.ror .accumulator) 9 s = .next t ∧ t.a = s.a ∧ t.flag .c = s.flag .c)

/-! ### The stack (spec/48_stack.md) -/

/-- Push writes at 0x0100 + SP and then takes 1 from SP modulo 256; no flag, no other register, no other byte. -/
def Obligations.PushWritesThenDecrements : Prop :=
  ∀ (s : State) (v : Byte) (addr : Word), addr.toNat = 0x0100 + s.sp.toNat →
    MemoryStored s (s.push v) addr v ∧ (s.push v).sp.toNat = (s.sp.toNat + 255) % 256 ∧
    ∃ m q, s.push v = { s with mem := m, sp := q }

/-- Pop adds 1 to SP modulo 256 and then reads at 0x0100 + SP; nothing else changes. -/
def Obligations.PopIncrementsThenReads : Prop :=
  ∀ s : State,
    s.popState.sp.toNat = (s.sp.toNat + 1) % 256 ∧
    s.popValue.toNat = byteAt s (0x0100 + (s.sp.toNat + 1) % 256) ∧
    ∃ q, s.popState = { s with sp := q }

/-- Up to 256 bytes pushed come back in reverse order, and SP returns to its starting value. -/
def Obligations.StackRoundTrip : Prop :=
  ∀ (vs : List Byte) (s : State), vs.length ≤ 256 →
    (popAll vs.length (pushAll vs s)).1 = vs.reverse ∧ (popAll vs.length (pushAll vs s)).2.sp = s.sp

/-- PHA pushes A; PHP pushes P with Break and Unused set and leaves the live P. -/
def Obligations.PushInstructionsStoreOneByte : Prop :=
  ∀ (s : State) (addr : Word), addr.toNat = 0x0100 + s.sp.toNat →
    NextState (.pha .implied) s (fun t =>
      Registers t s.a s.x s.y (s.sp - 1) ∧ t.p = s.p ∧ MemoryStored s t addr s.a ∧ Advanced s t 1) ∧
    NextState (.php .implied) s (fun t => ∃ v : Byte,
      getFlag v .b = true ∧ getFlag v .u = true ∧ (∀ f, f ≠ .b → f ≠ .u → getFlag v f = s.flag f) ∧
      Registers t s.a s.x s.y (s.sp - 1) ∧ t.p = s.p ∧ MemoryStored s t addr v ∧ Advanced s t 1)

/-- PLA pulls A with Z and N from it (decision D11, log 11); PLP pulls P with Break and Unused cleared. -/
def Obligations.PullInstructionsReadOneByte : Prop :=
  ∀ (s : State) (addr : Word), addr.toNat = 0x0100 + (s.sp.toNat + 1) % 256 →
    NextState (.pla .implied) s (fun t =>
      Registers t (s.readByte addr) s.x s.y (s.sp + 1) ∧ FlagsNZ s t (s.readByte addr) ∧ MemoryKept s t ∧
      Advanced s t 1) ∧
    NextState (.plp .implied) s (fun t =>
      Registers t s.a s.x s.y (s.sp + 1) ∧ t.flag .b = false ∧ t.flag .u = false ∧
      (∀ f, f ≠ .b → f ≠ .u → t.flag f = getFlag (s.readByte addr) f) ∧ MemoryKept s t ∧ Advanced s t 1)

/-! ### Control flow and halt (spec/49_control_flow_halt.md) -/

/-- JMP sets PC to the operand word, or to the word its pointer names with the high byte from the pointer's own page;
nothing else changes and no length is added (decisions D7, D8, log 14). -/
def Obligations.JmpSetsPc : Prop :=
  ∀ (w : Word) (s : State),
    NextState (.jmp (.absolute w)) s (fun t =>
      Registers t s.a s.x s.y s.sp ∧ t.p = s.p ∧ MemoryKept s t ∧ Redirected s t w.toNat) ∧
    NextState (.jmp (.indirect w)) s (fun t =>
      Registers t s.a s.x s.y s.sp ∧ t.p = s.p ∧ MemoryKept s t ∧
      Redirected s t (256 * byteAt s (w.toNat / 256 * 256 + (w.toNat + 1) % 256) + byteAt s w.toNat))

/-- Each branch: taken on its flag, PC from the next instruction's address plus the signed displacement; else the next
instruction; nothing else changes (the conditions: decision D3, log 9). -/
def Obligations.BranchesTestOneFlag : Prop :=
  ∀ (d : Byte) (s : State),
    let goes := fun (i : Instr) (taken : Bool) => NextState i s (fun t =>
      Registers t s.a s.x s.y s.sp ∧ t.p = s.p ∧ MemoryKept s t ∧
      Redirected s t (if taken then s.pc.toNat + 2 + d.toInt else s.pc.toNat + 2))
    goes (.bcc (.relative d)) (!s.flag .c) ∧ goes (.bcs (.relative d)) (s.flag .c) ∧
    goes (.beq (.relative d)) (s.flag .z) ∧ goes (.bne (.relative d)) (!s.flag .z) ∧
    goes (.bmi (.relative d)) (s.flag .n) ∧ goes (.bpl (.relative d)) (!s.flag .n) ∧
    goes (.bvc (.relative d)) (!s.flag .v) ∧ goes (.bvs (.relative d)) (s.flag .v)

/-- BRK halts: PC one past it (decision D12, log 13), and nothing else changes: no push, no flag. -/
def Obligations.BrkHaltsAndPushesNothing : Prop :=
  ∀ s : State, NextState (.brk .implied) s (fun t =>
    Registers t s.a s.x s.y s.sp ∧ t.p = s.p ∧ MemoryKept s t ∧
    t.pc.toNat = (s.pc.toNat + 1) % 65536 ∧ t.run = .halted ∧ t.fault = s.fault)

/-! ### The step and the faults (spec/41_engine_step.md, spec/60_exceptions.md) -/

/-- In run-state fetching a step is exec of the instruction the bytes at PC decode to, with nothing around it; step is
the step by the default table. -/
def Obligations.StepRunsDecodedInstruction : Prop :=
  (∀ (T : OpcodeTable) (s : State) (i : Instr) (rest : List Byte), s.run = .fetching →
    decodeWith T (fetchBytes s) = .ok (i, rest) → stepWith T s = exec i s) ∧
  ∀ (s : State) (i : Instr) (rest : List Byte), s.run = .fetching →
    decode (fetchBytes s) = .ok (i, rest) → step s = exec i s

/-- A mode the handler does not service: the fault with mode, mnemonic, opcode byte and address; nothing else changes
(the serviced modes: decision D17, log 16). -/
def Obligations.UnservicedModeFaults : Prop :=
  ∀ (i : Instr) (s : State), i.operand.mode ∉ servicedModes i.mnemonic →
    exec i s = .next (faultState s
      (.invalidAddressingMode i.operand.mode i.mnemonic (s.readByte s.pc) s.pc))

/-- Every handler completes in every mode it services, off the default table too, and halts only if it is BRK (decision
D17, log 16). -/
def Obligations.ServicedModesComplete : Prop :=
  ∀ (i : Instr) (s : State), i.operand.mode ∈ servicedModes i.mnemonic →
    ∃ t, exec i s = .next t ∧ t.fault = s.fault ∧
      t.run = (if i.mnemonic = .brk then .halted else .fetching)

/-- With the default table a step never raises InvalidAddressingMode. -/
def Obligations.DefaultTableRaisesOneFault : Prop :=
  ∀ s t : State, s.run = .fetching → s.fault = none → step s = .next t →
    t.fault = none ∨ t.fault = some (.unimplementedOpcode (s.readByte s.pc) s.pc)

/-- A byte of the 132 at PC: the step records it with its address and changes nothing else, PC included (which bytes:
decisions D2 and D5). -/
def Obligations.AbsentOpcodeFaultsUnchanged : Prop :=
  ∀ s : State, s.run = .fetching → s.readByte s.pc ∈ absentBytes →
    step s = .next (faultState s (.unimplementedOpcode (s.readByte s.pc) s.pc))

/-- A step that faults changes the run-state and the fault record and nothing else. -/
def Obligations.FaultingStepIsAllOrNothing : Prop :=
  ∀ (T : OpcodeTable) (s t : State), s.run = .fetching → stepWith T s = .next t → t.run = .faulted →
    ∃ f, t = faultState s f

/-- In run-state fetching a step always answers a next state, which is running, halted or faulted. -/
def Obligations.StepIsTotalWhileFetching : Prop :=
  ∀ (T : OpcodeTable) (s : State), s.run = .fetching →
    ∃ t, stepWith T s = .next t ∧ (t.run = .fetching ∨ t.run = .halted ∨ t.run = .faulted)

/-- Exactly one of the two: PC is what the handler set, or PC is pc0 plus the length (the branch conditions: decision
D3). -/
def Obligations.PcIsRedirectedOrAdvanced : Prop :=
  ∀ (i : Instr) (s : State), i.operand.mode ∈ servicedModes i.mnemonic →
    ∃ t, exec i s = .next t ∧
      t.pc = (match redirectTarget i.mnemonic i.operand s with
        | some target => target
        | none => s.pc + BitVec.ofNat 16 i.length)

/-- Halted and Faulted absorb Step and Run; run-state Reset refuses them; Reset() leads to Fetching from every run-state
(decisions D14, D15). -/
def Obligations.TerminalStatesAbsorb : Prop :=
  ∀ (T : OpcodeTable) (n : Nat) (s : State),
    (s.run = .halted ∨ s.run = .faulted → stepWith T s = .next s ∧ runFor T n s = .next s) ∧
    (s.run = .reset → stepWith T s = .refused .stepBeforeReset ∧ runFor T n s = .refused .stepBeforeReset) ∧
    s.doReset.run = .fetching ∧ s.doReset.fault = none

/-- A step by the default table halts exactly when the byte at PC is 0x00, and by any table only through a row of BRK. -/
def Obligations.OnlyBrkHalts : Prop :=
  (∀ s : State, s.run = .fetching → ((∃ t, step s = .next t ∧ t.run = .halted) ↔ s.readByte s.pc = 0x00)) ∧
  ∀ (T : OpcodeTable) (s t : State), s.run = .fetching → stepWith T s = .next t → t.run = .halted →
    ∃ d ∈ T.rows, d.opcodeByte = s.readByte s.pc ∧ d.mnemonic = .brk

/-- Run() returns with one state: whatever the number of steps, a run that ends ends in the same state, and more steps
do not move it. -/
def Obligations.RunReturnsOneState : Prop :=
  ∀ (T : OpcodeTable) (s t t' : State), Returns T s t → Returns T s t' →
    t = t' ∧ ∃ n, ∀ k, n ≤ k → runFor T k s = .next t

/-! ### Rules of the whole machine -/

/-- No instruction writes a flag that R37 does not name for it, in any mode, faults included (PLA's row: decision D11). -/
def Obligations.FlagsWrittenByTheTable : Prop :=
  ∀ (i : Instr) (s t : State), exec i s = .next t → ∀ f, f ∉ flagsWritten i.mnemonic → t.flag f = s.flag f

/-- A, X, Y and SP change only by the instructions R21 to R23 name. -/
def Obligations.RegistersWrittenByTheirInstructions : Prop :=
  ∀ (i : Instr) (s t : State), exec i s = .next t →
    (t.a ≠ s.a → i.mnemonic ∈ [Mnemonic.lda, .txa, .tya, .pla, .adc, .sbc, .and, .ora, .eor] ∨
      (i.mnemonic ∈ [Mnemonic.asl, .lsr, .rol, .ror] ∧ i.operand = .accumulator)) ∧
    (t.x ≠ s.x → i.mnemonic ∈ [Mnemonic.ldx, .tax, .tsx, .inx, .dex]) ∧
    (t.y ≠ s.y → i.mnemonic ∈ [Mnemonic.ldy, .tay, .iny, .dey]) ∧
    (t.sp ≠ s.sp → i.mnemonic ∈ [Mnemonic.pha, .php, .pla, .plp, .txs])

/-- An instruction changes at most the one byte it stores to; one that stores nothing changes no byte. -/
def Obligations.AtMostOneByteStored : Prop :=
  ∀ (i : Instr) (s t : State), exec i s = .next t →
    ∀ k, storeAddress i.mnemonic i.operand s ≠ some k → t.readByte k = s.readByte k

/-- A byte stored over the next opcode is the one fetched next. -/
def Obligations.StoreIsSeenByNextFetch : Prop :=
  ∀ s : State, ∃ t, exec (.sta (.absolute (s.pc + 3))) s = .next t ∧ t.pc = s.pc + 3 ∧
    (fetchBytes t).head? = some s.a

/-- I, D, B and U have no effect: from two states that differ only in them, every instruction but PHP and PLP gives
states that differ only in them, and leaves them as they were. -/
def Obligations.InertFlagsDoNotInterfere : Prop :=
  ∀ (i : Instr) (s t : State) (q : Byte), i.mnemonic ≠ .php → i.mnemonic ≠ .plp →
    (∀ f ∈ activeFlags, getFlag q f = s.flag f) → exec i s = .next t →
    ∃ q', exec i (s.setP q) = .next (t.setP q') ∧ (∀ f ∈ activeFlags, getFlag q' f = t.flag f) ∧
      ∀ f, f ∉ activeFlags → getFlag q' f = getFlag q f ∧ t.flag f = s.flag f

/-- Every step keeps the invariant: memory canonical, run-state and record consistent, live Break and Unused clear. -/
def Obligations.StepKeepsInvariant : Prop :=
  ∀ s t : State, s.Inv → step s = .next t → t.Inv

/-- The invariant holds at reset. -/
def Obligations.ResetMeetsInvariant : Prop := State.reset.Inv

/-- Every call of the host, Step and Run by any rows among them, keeps the memory canonical and the run-state consistent with the
record. -/
def Obligations.HostCallsKeepConsistency : Prop :=
  ∀ (cfg : Config) (call : HostCall) (s t : State), s.MemoryCanonical → s.RunStateConsistent →
    hostCall cfg call s = .next t → t.MemoryCanonical ∧ t.RunStateConsistent

/-! ### Reset and the host (spec/70_reset_and_hazards.md) -/

/-- Reset(): PC from the little-endian vector, SP 0xFF, P A X Y 0x00, running, record empty, memory untouched; twice is
as once (the last two registers of the engine: decisions D14, D20). -/
def Obligations.ResetSetsEveryRegister : Prop :=
  ∀ s : State,
    s.doReset.pc.toNat = 256 * byteAt s 0xFFFD + byteAt s 0xFFFC ∧
    Registers s.doReset 0x00 0x00 0x00 0xFF ∧ s.doReset.p = 0x00 ∧ s.doReset.mem = s.mem ∧
    s.doReset.run = .fetching ∧ s.doReset.fault = none ∧ s.doReset.doReset = s.doReset

/-- A machine just constructed, whatever its registers, is State.reset after Reset(): PC 0x0000; it halts at its first
step (derived in R44 and R264). -/
def Obligations.FreshMachineResetsAndHalts : Prop :=
  ∀ (a x y sp : Byte) (pc : Word) (p : Byte),
    step (State.constructed a x y sp pc p) = .refused .stepBeforeReset ∧
    (State.constructed a x y sp pc p).doReset = State.reset ∧ State.reset.pc = 0x0000 ∧
    ∃ t, step State.reset = .next t ∧ t.run = .halted ∧ t.pc = 0x0001

/-- Load: the image in place but for the two vector bytes, the vector the load address, every other byte and every
register as before; Reset() then finds the load address (order and wrap: decision D16, log 17). -/
def Obligations.LoadPlacesImageAndVector : Prop :=
  ∀ (cfg : Config) (bytes : List Byte) (s : State), bytes.length ≤ 65536 →
    ∃ t, hostCall cfg (.load bytes) s = .next t ∧
      (∀ i (h : i < bytes.length), cfg.loadAddr + BitVec.ofNat 16 i ≠ 0xFFFC → cfg.loadAddr + BitVec.ofNat 16 i ≠ 0xFFFD →
        t.readByte (cfg.loadAddr + BitVec.ofNat 16 i) = bytes[i]) ∧
      t.readWord 0xFFFC = cfg.loadAddr ∧ t.doReset.pc = cfg.loadAddr ∧
      (∀ k, k ≠ 0xFFFC → k ≠ 0xFFFD → (∀ i < bytes.length, k ≠ cfg.loadAddr + BitVec.ofNat 16 i) →
        t.readByte k = s.readByte k) ∧
      ∃ m, t = { s with mem := m }

/-- What the host may not do is refused: an image over 65536 bytes, and a step or a run by rows that break R95. -/
def Obligations.IllegalHostCallsAreRefused : Prop :=
  ∀ (cfg : Config) (s : State),
    (∀ bytes : List Byte, 65536 < bytes.length → hostCall cfg (.load bytes) s = .refused .imageTooLong) ∧
    (¬legalRows cfg.opcodeRows → hostCall cfg .step s = .refused .illegalOpcodeTable ∧
      ∀ n, hostCall cfg (.run n) s = .refused .illegalOpcodeTable) ∧
    ∀ h : legalRows cfg.opcodeRows, hostCall cfg .step s = stepWith ⟨cfg.opcodeRows, h⟩ s ∧
      ∀ n, hostCall cfg (.run n) s = runFor ⟨cfg.opcodeRows, h⟩ n s

/-- A poke changes the named register, flag or cell and nothing else, run-state and record included (decision D19). -/
def Obligations.PokesTouchOnlyTheirTarget : Prop :=
  ∀ (cfg : Config) (s : State) (v : Byte) (w addr : Word) (f : Flag),
    hostCall cfg (.pokeA v) s = .next { s with a := v } ∧ hostCall cfg (.pokeX v) s = .next { s with x := v } ∧
    hostCall cfg (.pokeY v) s = .next { s with y := v } ∧ hostCall cfg (.pokeSp v) s = .next { s with sp := v } ∧
    hostCall cfg (.pokePc w) s = .next { s with pc := w } ∧ hostCall cfg (.pokeP v) s = .next { s with p := v } ∧
    (∃ q, hostCall cfg (.setFlag f) s = .next { s with p := q } ∧ getFlag q f = true ∧
      ∀ g, g ≠ f → getFlag q g = s.flag g) ∧
    (∃ q, hostCall cfg (.clearFlag f) s = .next { s with p := q } ∧ getFlag q f = false ∧
      ∀ g, g ≠ f → getFlag q g = s.flag g) ∧
    (∃ m, hostCall cfg (.pokeByte addr v) s = .next { s with mem := m } ∧
      MemoryStored s { s with mem := m } addr v) ∧
    (∃ m, hostCall cfg (.pokeWord addr w) s = .next { s with mem := m } ∧
      State.readWord { s with mem := m } addr = w ∧
      ∀ k, k ≠ addr → k ≠ addr + 1 → State.readByte { s with mem := m } k = s.readByte k)
end

