-- ==== Sys2Proof/Laws/State.lean ====
section
/-! SUPPORT. One lemma per field per register update, so that no later proof unfolds a record update. -/

namespace Sys2Proof.Machine

variable (s : State)

@[simp] theorem State.setA_a (v : Byte) : (s.setA v).a = v := rfl
@[simp] theorem State.setA_x (v : Byte) : (s.setA v).x = s.x := rfl
@[simp] theorem State.setA_y (v : Byte) : (s.setA v).y = s.y := rfl
@[simp] theorem State.setA_sp (v : Byte) : (s.setA v).sp = s.sp := rfl
@[simp] theorem State.setA_pc (v : Byte) : (s.setA v).pc = s.pc := rfl
@[simp] theorem State.setA_p (v : Byte) : (s.setA v).p = s.p := rfl
@[simp] theorem State.setA_mem (v : Byte) : (s.setA v).mem = s.mem := rfl
@[simp] theorem State.setA_run (v : Byte) : (s.setA v).run = s.run := rfl
@[simp] theorem State.setA_fault (v : Byte) : (s.setA v).fault = s.fault := rfl

@[simp] theorem State.setX_a (v : Byte) : (s.setX v).a = s.a := rfl
@[simp] theorem State.setX_x (v : Byte) : (s.setX v).x = v := rfl
@[simp] theorem State.setX_y (v : Byte) : (s.setX v).y = s.y := rfl
@[simp] theorem State.setX_sp (v : Byte) : (s.setX v).sp = s.sp := rfl
@[simp] theorem State.setX_pc (v : Byte) : (s.setX v).pc = s.pc := rfl
@[simp] theorem State.setX_p (v : Byte) : (s.setX v).p = s.p := rfl
@[simp] theorem State.setX_mem (v : Byte) : (s.setX v).mem = s.mem := rfl
@[simp] theorem State.setX_run (v : Byte) : (s.setX v).run = s.run := rfl
@[simp] theorem State.setX_fault (v : Byte) : (s.setX v).fault = s.fault := rfl

@[simp] theorem State.setY_a (v : Byte) : (s.setY v).a = s.a := rfl
@[simp] theorem State.setY_x (v : Byte) : (s.setY v).x = s.x := rfl
@[simp] theorem State.setY_y (v : Byte) : (s.setY v).y = v := rfl
@[simp] theorem State.setY_sp (v : Byte) : (s.setY v).sp = s.sp := rfl
@[simp] theorem State.setY_pc (v : Byte) : (s.setY v).pc = s.pc := rfl
@[simp] theorem State.setY_p (v : Byte) : (s.setY v).p = s.p := rfl
@[simp] theorem State.setY_mem (v : Byte) : (s.setY v).mem = s.mem := rfl
@[simp] theorem State.setY_run (v : Byte) : (s.setY v).run = s.run := rfl
@[simp] theorem State.setY_fault (v : Byte) : (s.setY v).fault = s.fault := rfl

@[simp] theorem State.setSp_a (v : Byte) : (s.setSp v).a = s.a := rfl
@[simp] theorem State.setSp_x (v : Byte) : (s.setSp v).x = s.x := rfl
@[simp] theorem State.setSp_y (v : Byte) : (s.setSp v).y = s.y := rfl
@[simp] theorem State.setSp_sp (v : Byte) : (s.setSp v).sp = v := rfl
@[simp] theorem State.setSp_pc (v : Byte) : (s.setSp v).pc = s.pc := rfl
@[simp] theorem State.setSp_p (v : Byte) : (s.setSp v).p = s.p := rfl
@[simp] theorem State.setSp_mem (v : Byte) : (s.setSp v).mem = s.mem := rfl
@[simp] theorem State.setSp_run (v : Byte) : (s.setSp v).run = s.run := rfl
@[simp] theorem State.setSp_fault (v : Byte) : (s.setSp v).fault = s.fault := rfl

@[simp] theorem State.setPc_a (v : Word) : (s.setPc v).a = s.a := rfl
@[simp] theorem State.setPc_x (v : Word) : (s.setPc v).x = s.x := rfl
@[simp] theorem State.setPc_y (v : Word) : (s.setPc v).y = s.y := rfl
@[simp] theorem State.setPc_sp (v : Word) : (s.setPc v).sp = s.sp := rfl
@[simp] theorem State.setPc_pc (v : Word) : (s.setPc v).pc = v := rfl
@[simp] theorem State.setPc_p (v : Word) : (s.setPc v).p = s.p := rfl
@[simp] theorem State.setPc_mem (v : Word) : (s.setPc v).mem = s.mem := rfl
@[simp] theorem State.setPc_run (v : Word) : (s.setPc v).run = s.run := rfl
@[simp] theorem State.setPc_fault (v : Word) : (s.setPc v).fault = s.fault := rfl

@[simp] theorem State.setP_a (v : Byte) : (s.setP v).a = s.a := rfl
@[simp] theorem State.setP_x (v : Byte) : (s.setP v).x = s.x := rfl
@[simp] theorem State.setP_y (v : Byte) : (s.setP v).y = s.y := rfl
@[simp] theorem State.setP_sp (v : Byte) : (s.setP v).sp = s.sp := rfl
@[simp] theorem State.setP_pc (v : Byte) : (s.setP v).pc = s.pc := rfl
@[simp] theorem State.setP_p (v : Byte) : (s.setP v).p = v := rfl
@[simp] theorem State.setP_mem (v : Byte) : (s.setP v).mem = s.mem := rfl
@[simp] theorem State.setP_run (v : Byte) : (s.setP v).run = s.run := rfl
@[simp] theorem State.setP_fault (v : Byte) : (s.setP v).fault = s.fault := rfl

@[simp] theorem State.setMem_a (v : Memory) : (s.setMem v).a = s.a := rfl
@[simp] theorem State.setMem_x (v : Memory) : (s.setMem v).x = s.x := rfl
@[simp] theorem State.setMem_y (v : Memory) : (s.setMem v).y = s.y := rfl
@[simp] theorem State.setMem_sp (v : Memory) : (s.setMem v).sp = s.sp := rfl
@[simp] theorem State.setMem_pc (v : Memory) : (s.setMem v).pc = s.pc := rfl
@[simp] theorem State.setMem_p (v : Memory) : (s.setMem v).p = s.p := rfl
@[simp] theorem State.setMem_mem (v : Memory) : (s.setMem v).mem = v := rfl
@[simp] theorem State.setMem_run (v : Memory) : (s.setMem v).run = s.run := rfl
@[simp] theorem State.setMem_fault (v : Memory) : (s.setMem v).fault = s.fault := rfl

@[simp] theorem State.setRun_a (v : RunState) : (s.setRun v).a = s.a := rfl
@[simp] theorem State.setRun_x (v : RunState) : (s.setRun v).x = s.x := rfl
@[simp] theorem State.setRun_y (v : RunState) : (s.setRun v).y = s.y := rfl
@[simp] theorem State.setRun_sp (v : RunState) : (s.setRun v).sp = s.sp := rfl
@[simp] theorem State.setRun_pc (v : RunState) : (s.setRun v).pc = s.pc := rfl
@[simp] theorem State.setRun_p (v : RunState) : (s.setRun v).p = s.p := rfl
@[simp] theorem State.setRun_mem (v : RunState) : (s.setRun v).mem = s.mem := rfl
@[simp] theorem State.setRun_run (v : RunState) : (s.setRun v).run = v := rfl
@[simp] theorem State.setRun_fault (v : RunState) : (s.setRun v).fault = s.fault := rfl

@[simp] theorem State.setFault_a (v : Option Fault) : (s.setFault v).a = s.a := rfl
@[simp] theorem State.setFault_x (v : Option Fault) : (s.setFault v).x = s.x := rfl
@[simp] theorem State.setFault_y (v : Option Fault) : (s.setFault v).y = s.y := rfl
@[simp] theorem State.setFault_sp (v : Option Fault) : (s.setFault v).sp = s.sp := rfl
@[simp] theorem State.setFault_pc (v : Option Fault) : (s.setFault v).pc = s.pc := rfl
@[simp] theorem State.setFault_p (v : Option Fault) : (s.setFault v).p = s.p := rfl
@[simp] theorem State.setFault_mem (v : Option Fault) : (s.setFault v).mem = s.mem := rfl
@[simp] theorem State.setFault_run (v : Option Fault) : (s.setFault v).run = s.run := rfl
@[simp] theorem State.setFault_fault (v : Option Fault) : (s.setFault v).fault = v := rfl

/-! Updates of one field. -/

@[simp] theorem State.setA_self : s.setA s.a = s := rfl
@[simp] theorem State.setX_self : s.setX s.x = s := rfl
@[simp] theorem State.setY_self : s.setY s.y = s := rfl
@[simp] theorem State.setSp_self : s.setSp s.sp = s := rfl
@[simp] theorem State.setPc_self : s.setPc s.pc = s := rfl
@[simp] theorem State.setP_self : s.setP s.p = s := rfl
@[simp] theorem State.setMem_self : s.setMem s.mem = s := rfl
@[simp] theorem State.setRun_self : s.setRun s.run = s := rfl
@[simp] theorem State.setFault_self : s.setFault s.fault = s := rfl

/-- Two states with the same fields are the same state. -/
theorem State.ext_fields {s t : State} (ha : s.a = t.a) (hx : s.x = t.x) (hy : s.y = t.y) (hsp : s.sp = t.sp)
    (hpc : s.pc = t.pc) (hp : s.p = t.p) (hm : s.mem = t.mem) (hr : s.run = t.run) (hf : s.fault = t.fault) :
    s = t := by
  cases s
  cases t
  simp_all

/-! The fields a fault entry and Reset() leave. -/

@[simp] theorem State.raise_a (f : Fault) : (s.raise f).a = s.a := rfl
@[simp] theorem State.raise_x (f : Fault) : (s.raise f).x = s.x := rfl
@[simp] theorem State.raise_y (f : Fault) : (s.raise f).y = s.y := rfl
@[simp] theorem State.raise_sp (f : Fault) : (s.raise f).sp = s.sp := rfl
@[simp] theorem State.raise_pc (f : Fault) : (s.raise f).pc = s.pc := rfl
@[simp] theorem State.raise_p (f : Fault) : (s.raise f).p = s.p := rfl
@[simp] theorem State.raise_mem (f : Fault) : (s.raise f).mem = s.mem := rfl
@[simp] theorem State.raise_run (f : Fault) : (s.raise f).run = .faulted := rfl
@[simp] theorem State.raise_fault (f : Fault) : (s.raise f).fault = some f := rfl

@[simp] theorem State.doReset_a : s.doReset.a = 0x00 := rfl
@[simp] theorem State.doReset_x : s.doReset.x = 0x00 := rfl
@[simp] theorem State.doReset_y : s.doReset.y = 0x00 := rfl
@[simp] theorem State.doReset_sp : s.doReset.sp = 0xFF := rfl
@[simp] theorem State.doReset_p : s.doReset.p = 0x00 := rfl
@[simp] theorem State.doReset_mem : s.doReset.mem = s.mem := rfl
@[simp] theorem State.doReset_run : s.doReset.run = .fetching := rfl
@[simp] theorem State.doReset_fault : s.doReset.fault = none := rfl
@[simp] theorem State.doReset_pc : s.doReset.pc = s.readWord resetVector := rfl

/-! The fields a memory write leaves. -/

@[simp] theorem State.writeByte_a (addr : Word) (v : Byte) : (s.writeByte addr v).a = s.a := rfl
@[simp] theorem State.writeByte_x (addr : Word) (v : Byte) : (s.writeByte addr v).x = s.x := rfl
@[simp] theorem State.writeByte_y (addr : Word) (v : Byte) : (s.writeByte addr v).y = s.y := rfl
@[simp] theorem State.writeByte_sp (addr : Word) (v : Byte) : (s.writeByte addr v).sp = s.sp := rfl
@[simp] theorem State.writeByte_pc (addr : Word) (v : Byte) : (s.writeByte addr v).pc = s.pc := rfl
@[simp] theorem State.writeByte_p (addr : Word) (v : Byte) : (s.writeByte addr v).p = s.p := rfl
@[simp] theorem State.writeByte_run (addr : Word) (v : Byte) : (s.writeByte addr v).run = s.run := rfl
@[simp] theorem State.writeByte_fault (addr : Word) (v : Byte) : (s.writeByte addr v).fault = s.fault := rfl
@[simp] theorem State.writeByte_mem (addr : Word) (v : Byte) :
    (s.writeByte addr v).mem = Memory.write s.mem addr.toNat v := rfl

@[simp] theorem State.writeWord_a (addr w : Word) : (s.writeWord addr w).a = s.a := rfl
@[simp] theorem State.writeWord_x (addr w : Word) : (s.writeWord addr w).x = s.x := rfl
@[simp] theorem State.writeWord_y (addr w : Word) : (s.writeWord addr w).y = s.y := rfl
@[simp] theorem State.writeWord_sp (addr w : Word) : (s.writeWord addr w).sp = s.sp := rfl
@[simp] theorem State.writeWord_pc (addr w : Word) : (s.writeWord addr w).pc = s.pc := rfl
@[simp] theorem State.writeWord_p (addr w : Word) : (s.writeWord addr w).p = s.p := rfl
@[simp] theorem State.writeWord_run (addr w : Word) : (s.writeWord addr w).run = s.run := rfl
@[simp] theorem State.writeWord_fault (addr w : Word) : (s.writeWord addr w).fault = s.fault := rfl

/-! Reading depends on memory alone. -/

@[simp] theorem State.setA_readByte (v : Byte) (addr : Word) : (s.setA v).readByte addr = s.readByte addr := rfl
@[simp] theorem State.setX_readByte (v : Byte) (addr : Word) : (s.setX v).readByte addr = s.readByte addr := rfl
@[simp] theorem State.setY_readByte (v : Byte) (addr : Word) : (s.setY v).readByte addr = s.readByte addr := rfl
@[simp] theorem State.setSp_readByte (v : Byte) (addr : Word) : (s.setSp v).readByte addr = s.readByte addr := rfl
@[simp] theorem State.setPc_readByte (v : Word) (addr : Word) : (s.setPc v).readByte addr = s.readByte addr := rfl
@[simp] theorem State.setP_readByte (v : Byte) (addr : Word) : (s.setP v).readByte addr = s.readByte addr := rfl
@[simp] theorem State.setRun_readByte (v : RunState) (addr : Word) : (s.setRun v).readByte addr = s.readByte addr := rfl
@[simp] theorem State.setFault_readByte (v : Option Fault) (addr : Word) : (s.setFault v).readByte addr = s.readByte addr := rfl
@[simp] theorem State.raise_readByte (f : Fault) (addr : Word) : (s.raise f).readByte addr = s.readByte addr := rfl
@[simp] theorem State.doReset_readByte (addr : Word) : s.doReset.readByte addr = s.readByte addr := rfl

/-- Two states with the same memory read the same bytes. -/
theorem State.readByte_of_mem_eq {s t : State} (h : s.mem = t.mem) (addr : Word) : s.readByte addr = t.readByte addr := by
  unfold State.readByte
  rw [h]

end Sys2Proof.Machine
end

