-- ==== Sys2Proof/Laws/Flags.lean ====
section
/-! SUPPORT. What each flag computation does to each flag, once. -/

namespace Sys2Proof.Machine

/-- Setting one flag leaves the seven others as they were. -/
theorem getFlag_putFlag (p : Byte) (f g : Flag) (b : Bool) :
    getFlag (putFlag p f b) g = if g = f then b else getFlag p g := by
  cases b <;> cases f <;> cases g <;> simp [getFlag, putFlag, Flag.mask, Flag.bit]

/-- A status byte is determined by its eight flags. -/
theorem status_ext {p q : Byte} (h : ∀ f, getFlag p f = getFlag q f) : p = q := by
  apply BitVec.eq_of_getLsbD_eq
  intro i hi
  have hc := h .c; have hz := h .z; have hI := h .i; have hd := h .d
  have hb := h .b; have hu := h .u; have hv := h .v; have hn := h .n
  simp only [getFlag, Flag.bit] at hc hz hI hd hb hu hv hn
  interval_cases i <;> assumption

/-- SetNZ flag by flag: Z says whether the value is 0x00, N is its bit 7, the others stay. -/
theorem getFlag_setNZ (p v : Byte) (f : Flag) :
    getFlag (setNZ p v) f = match f with
      | .z => v == 0x00
      | .n => v.msb
      | f => getFlag p f := by
  cases f <;> simp [setNZ, getFlag_putFlag]

@[simp] theorem State.setNZ_a (s : State) (v : Byte) : (s.setNZ v).a = s.a := rfl
@[simp] theorem State.setNZ_x (s : State) (v : Byte) : (s.setNZ v).x = s.x := rfl
@[simp] theorem State.setNZ_y (s : State) (v : Byte) : (s.setNZ v).y = s.y := rfl
@[simp] theorem State.setNZ_sp (s : State) (v : Byte) : (s.setNZ v).sp = s.sp := rfl
@[simp] theorem State.setNZ_pc (s : State) (v : Byte) : (s.setNZ v).pc = s.pc := rfl
@[simp] theorem State.setNZ_p (s : State) (v : Byte) : (s.setNZ v).p = Machine.setNZ s.p v := rfl
@[simp] theorem State.setNZ_mem (s : State) (v : Byte) : (s.setNZ v).mem = s.mem := rfl
@[simp] theorem State.setNZ_run (s : State) (v : Byte) : (s.setNZ v).run = s.run := rfl
@[simp] theorem State.setNZ_fault (s : State) (v : Byte) : (s.setNZ v).fault = s.fault := rfl
@[simp] theorem State.setNZ_readByte (s : State) (v : Byte) (k : Word) : (s.setNZ v).readByte k = s.readByte k := rfl

@[simp] theorem State.addWithCarry_a (s : State) (m : Byte) :
    (s.addWithCarry m).a = sumResult s.a m (s.flag .c) := rfl
@[simp] theorem State.addWithCarry_x (s : State) (m : Byte) : (s.addWithCarry m).x = s.x := rfl
@[simp] theorem State.addWithCarry_y (s : State) (m : Byte) : (s.addWithCarry m).y = s.y := rfl
@[simp] theorem State.addWithCarry_sp (s : State) (m : Byte) : (s.addWithCarry m).sp = s.sp := rfl
@[simp] theorem State.addWithCarry_mem (s : State) (m : Byte) : (s.addWithCarry m).mem = s.mem := rfl
@[simp] theorem State.addWithCarry_fault (s : State) (m : Byte) : (s.addWithCarry m).fault = s.fault := rfl
@[simp] theorem State.addWithCarry_readByte (s : State) (m : Byte) (k : Word) :
    (s.addWithCarry m).readByte k = s.readByte k := rfl

/-- The flags ADC and SBC leave: C and V from the sum, Z and N from its low byte, the others as they were. -/
theorem State.addWithCarry_flag (s : State) (m : Byte) (f : Flag) :
    (s.addWithCarry m).flag f = match f with
      | .c => sumCarry s.a m (s.flag .c)
      | .v => sumOverflow s.a m (s.flag .c)
      | .z => sumResult s.a m (s.flag .c) == 0x00
      | .n => (sumResult s.a m (s.flag .c)).msb
      | f => s.flag f := by
  cases f <;> simp [State.addWithCarry, State.flag, getFlag_setNZ, getFlag_putFlag]

@[simp] theorem State.setShiftFlags_a (s : State) (r : ShiftResult) : (s.setShiftFlags r).a = s.a := rfl
@[simp] theorem State.setShiftFlags_x (s : State) (r : ShiftResult) : (s.setShiftFlags r).x = s.x := rfl
@[simp] theorem State.setShiftFlags_y (s : State) (r : ShiftResult) : (s.setShiftFlags r).y = s.y := rfl
@[simp] theorem State.setShiftFlags_sp (s : State) (r : ShiftResult) : (s.setShiftFlags r).sp = s.sp := rfl
@[simp] theorem State.setShiftFlags_mem (s : State) (r : ShiftResult) : (s.setShiftFlags r).mem = s.mem := rfl
@[simp] theorem State.setShiftFlags_fault (s : State) (r : ShiftResult) : (s.setShiftFlags r).fault = s.fault := rfl
@[simp] theorem State.setShiftFlags_readByte (s : State) (r : ShiftResult) (k : Word) :
    (s.setShiftFlags r).readByte k = s.readByte k := rfl

/-- The flags a shift leaves: C the outgoing bit, Z and N from the result, the others as they were. -/
theorem State.setShiftFlags_flag (s : State) (r : ShiftResult) (f : Flag) :
    (s.setShiftFlags r).flag f = match f with
      | .c => r.carry
      | .z => r.result == 0x00
      | .n => r.result.msb
      | f => s.flag f := by
  cases f <;> simp [State.setShiftFlags, State.flag, getFlag_setNZ, getFlag_putFlag]

/-- The flags of the copy PHP pushes. -/
theorem getFlag_pushedStatus (p : Byte) (f : Flag) :
    getFlag (pushedStatus p) f = match f with
      | .b => true
      | .u => true
      | f => getFlag p f := by
  cases f <;> simp [getFlag, pushedStatus, Flag.bit]

/-- The flags PLP writes. -/
theorem getFlag_pulledStatus (v : Byte) (f : Flag) :
    getFlag (pulledStatus v) f = match f with
      | .b => false
      | .u => false
      | f => getFlag v f := by
  cases f <;> simp [getFlag, pulledStatus, Flag.bit]

end Sys2Proof.Machine
end

