-- ==== Sys2Proof/Laws/Memory.lean ====
section
/-! SUPPORT. Memory as a canonical list: what a read sees after a write, that a write keeps the canonical form, and that
a canonical memory is determined by its reads. -/

namespace Sys2Proof.Machine

/-! ### Read after write -/

theorem Memory.read_erase (m : Memory) (k j : Nat) :
    Memory.read (Memory.erase m k) j = if j = k then 0x00 else Memory.read m j := by
  induction m with
  | nil => simp [Memory.erase, Memory.read]
  | cons c m ih =>
    obtain ⟨a, b⟩ := c
    by_cases hak : a = k
    · subst hak
      by_cases hj : j = a
      · subst hj
        simpa [Memory.erase] using ih
      · simp [Memory.erase, Memory.read, ih, hj, Ne.symm hj]
    · by_cases hja : a = j
      · subst hja
        simp [Memory.erase, Memory.read, hak]
      · simp [Memory.erase, Memory.read, hak, hja, ih]

theorem Memory.read_insert (m : Memory) (k j : Nat) (v : Byte) (h : Memory.read m k = 0x00)
    (hk : ∀ c ∈ m, c.1 ≠ k) :
    Memory.read (Memory.insert m k v) j = if j = k then v else Memory.read m j := by
  induction m with
  | nil => simp [Memory.insert, Memory.read, eq_comm]
  | cons c m ih =>
    obtain ⟨a, b⟩ := c
    have hak : a ≠ k := hk (a, b) (by simp)
    have ih' := ih (by simpa [Memory.read, hak] using h) (fun c hc => hk c (by simp [hc]))
    by_cases hlt : k < a
    · by_cases hj : k = j
      · subst hj
        simp [Memory.insert, Memory.read, hlt]
      · simp [Memory.insert, Memory.read, hlt, hj, Ne.symm hj]
    · by_cases haj : a = j
      · subst haj
        simp [Memory.insert, Memory.read, hlt, hak]
      · simp [Memory.insert, Memory.read, hlt, haj, ih']

theorem Memory.mem_erase {m : Memory} {k : Nat} {c : Host.Cell} (h : c ∈ Memory.erase m k) : c ∈ m ∧ c.1 ≠ k := by
  induction m with
  | nil => simp [Memory.erase] at h
  | cons d m ih =>
    obtain ⟨a, b⟩ := d
    by_cases hak : a = k
    · have := ih (by simpa [Memory.erase, hak] using h)
      exact ⟨by simp [this.1], this.2⟩
    · rcases (by simpa [Memory.erase, hak] using h : c = (a, b) ∨ c ∈ Memory.erase m k) with rfl | hc
      · exact ⟨by simp, hak⟩
      · exact ⟨by simp [(ih hc).1], (ih hc).2⟩

/-- A read after a write: the value at the address written, the old byte everywhere else. True of every list. -/
theorem Memory.read_write (m : Memory) (k j : Nat) (v : Byte) :
    Memory.read (Memory.write m k v) j = if j = k then v else Memory.read m j := by
  unfold Memory.write
  by_cases hv : v = 0x00
  · subst hv
    simp [Memory.read_erase]
  · rw [if_neg hv, Memory.read_insert _ _ _ _ (by simp [Memory.read_erase]) (fun c hc => (Memory.mem_erase hc).2),
      Memory.read_erase]
    by_cases hj : j = k <;> simp [hj]

/-! ### The canonical form -/

theorem Memory.wf_nil : Memory.wf [] := by simp [Memory.wf]

theorem Memory.wf_cons {c : Host.Cell} {m : Memory} :
    Memory.wf (c :: m) ↔ (∀ d ∈ m, c.1 < d.1) ∧ (c.1 < 65536 ∧ c.2 ≠ 0) ∧ Memory.wf m := by
  simp only [Memory.wf, List.pairwise_cons, List.mem_cons, forall_eq_or_imp]
  tauto

theorem Memory.wf_erase {m : Memory} (k : Nat) (h : Memory.wf m) : Memory.wf (Memory.erase m k) := by
  induction m with
  | nil => exact h
  | cons c m ih =>
    obtain ⟨a, b⟩ := c
    rw [Memory.wf_cons] at h
    by_cases hak : a = k
    · simpa [Memory.erase, hak] using ih h.2.2
    · simp only [Memory.erase, hak, if_false]
      exact Memory.wf_cons.2 ⟨fun d hd => h.1 d (Memory.mem_erase hd).1, h.2.1, ih h.2.2⟩

theorem Memory.mem_insert {m : Memory} {k : Nat} {v : Byte} {c : Host.Cell} (h : c ∈ Memory.insert m k v) :
    c = (k, v) ∨ c ∈ m := by
  induction m with
  | nil => simpa [Memory.insert] using h
  | cons d m ih =>
    obtain ⟨a, b⟩ := d
    by_cases hlt : k < a
    · simpa [Memory.insert, hlt] using h
    · rcases (by simpa [Memory.insert, hlt] using h : c = (a, b) ∨ c ∈ Memory.insert m k v) with rfl | hc
      · simp
      · rcases ih hc with rfl | hm <;> simp [*]

theorem Memory.wf_insert {m : Memory} {k : Nat} {v : Byte} (h : Memory.wf m) (hk : k < 65536) (hv : v ≠ 0)
    (hfresh : ∀ c ∈ m, c.1 ≠ k) : Memory.wf (Memory.insert m k v) := by
  induction m with
  | nil => exact Memory.wf_cons.2 ⟨by simp, ⟨hk, hv⟩, h⟩
  | cons c m ih =>
    obtain ⟨a, b⟩ := c
    have hcons := Memory.wf_cons.1 h
    have hak : a ≠ k := hfresh (a, b) (by simp)
    by_cases hlt : k < a
    · simp only [Memory.insert, hlt, if_true]
      refine Memory.wf_cons.2 ⟨fun d hd => ?_, ⟨hk, hv⟩, h⟩
      rcases List.mem_cons.1 hd with rfl | hd
      · exact hlt
      · exact lt_trans hlt (hcons.1 d hd)
    · simp only [Memory.insert, hlt, if_false]
      refine Memory.wf_cons.2 ⟨fun d hd => ?_, hcons.2.1, ih hcons.2.2 (fun c hc => hfresh c (by simp [hc]))⟩
      rcases Memory.mem_insert hd with rfl | hd
      · simp only
        omega
      · exact hcons.1 d hd

/-- A write below 65536 keeps the canonical form. -/
theorem Memory.wf_write {m : Memory} {k : Nat} (v : Byte) (h : Memory.wf m) (hk : k < 65536) :
    Memory.wf (Memory.write m k v) := by
  unfold Memory.write
  split
  · exact Memory.wf_erase k h
  · exact Memory.wf_insert (Memory.wf_erase k h) hk ‹_› (fun c hc => (Memory.mem_erase hc).2)

/-- Every memory operation of the state keeps the canonical form: a byte write. -/
theorem State.writeByte_wf {s : State} (addr : Word) (v : Byte) (h : Memory.wf s.mem) :
    Memory.wf (s.writeByte addr v).mem :=
  Memory.wf_write v h addr.isLt

/-- Likewise a word write. -/
theorem State.writeWord_wf {s : State} (addr w : Word) (h : Memory.wf s.mem) : Memory.wf (s.writeWord addr w).mem :=
  State.writeByte_wf _ _ (State.writeByte_wf _ _ h)

/-- Likewise a run of bytes. -/
theorem State.writeBytes_wf (bs : List Byte) {s : State} (addr : Word) (h : Memory.wf s.mem) :
    Memory.wf (s.writeBytes addr bs).mem := by
  induction bs generalizing s addr with
  | nil => exact h
  | cons b bs ih => exact ih _ (State.writeByte_wf addr b h)

/-- Likewise a push. -/
theorem State.push_wf {s : State} (v : Byte) (h : Memory.wf s.mem) : Memory.wf (s.push v).mem :=
  State.writeByte_wf _ _ h

/-! ### The state's reads -/

/-- readByte after writeByte. -/
theorem State.readByte_writeByte (s : State) (addr k : Word) (v : Byte) :
    (s.writeByte addr v).readByte k = if k = addr then v else s.readByte k := by
  simp only [State.readByte, State.writeByte_mem, Memory.read_write, BitVec.toNat_inj]

@[simp] theorem State.readByte_writeByte_same (s : State) (addr : Word) (v : Byte) :
    (s.writeByte addr v).readByte addr = v := by
  simp [State.readByte_writeByte]

theorem State.readByte_writeByte_other {s : State} {addr k : Word} (v : Byte) (h : k ≠ addr) :
    (s.writeByte addr v).readByte k = s.readByte k := by
  simp [State.readByte_writeByte, h]

end Sys2Proof.Machine
end

