-- ==== Sys2Proof/Laws/Ops.lean ====
section
/-! SUPPORT. Words and their halves, the stack engine, runs of byte writes, and the engine's advance. -/

namespace Sys2Proof.Machine

/-! ### Words -/

/-- word(h, l) = 256*h + l (spec/00_scope.md R9). -/
theorem word_toNat (h l : Byte) : (word h l).toNat = 256 * h.toNat + l.toNat := by
  have hl := l.isLt
  have : (word h l).toNat = h.toNat <<< 8 ||| l.toNat := BitVec.toNat_append h l
  rw [this, ← Nat.shiftLeft_add_eq_or_of_lt hl, Nat.shiftLeft_eq]
  omega

theorem lo_toNat (w : Word) : (lo w).toNat = w.toNat % 256 := by
  simp [lo, BitVec.extractLsb'_toNat]

theorem hi_toNat (w : Word) : (hi w).toNat = w.toNat / 256 := by
  have := w.isLt
  simp only [hi, BitVec.extractLsb'_toNat, Nat.shiftRight_eq_div_pow]
  omega

@[simp] theorem lo_word (h l : Byte) : lo (word h l) = l := by
  apply BitVec.eq_of_toNat_eq
  have := l.isLt
  rw [lo_toNat, word_toNat]
  omega

@[simp] theorem hi_word (h l : Byte) : hi (word h l) = h := by
  apply BitVec.eq_of_toNat_eq
  have := l.isLt
  rw [hi_toNat, word_toNat]
  omega

@[simp] theorem word_hi_lo (w : Word) : word (hi w) (lo w) = w := by
  apply BitVec.eq_of_toNat_eq
  rw [word_toNat, hi_toNat, lo_toNat]
  omega

@[simp] theorem zext16_toNat (b : Byte) : (zext16 b).toNat = b.toNat := by
  have := b.isLt
  simp [zext16]
  omega

@[simp] theorem sext16_toInt (b : Byte) : (sext16 b).toInt = b.toInt := by
  simp [sext16, BitVec.toInt_signExtend_of_le]

/-! ### The stack engine (spec/48_stack.md R200, R201) -/

/-- The address SP names lies in the stack page. -/
theorem stackAddr_toNat (sp : Byte) : (stackAddr sp).toNat = 256 + sp.toNat := by
  have := sp.isLt
  simp [stackAddr]
  omega

theorem stackAddr_inj {p q : Byte} (h : stackAddr p = stackAddr q) : p = q := by
  apply BitVec.eq_of_toNat_eq
  have := congrArg BitVec.toNat h
  simpa [stackAddr_toNat] using this

variable (s : State)

@[simp] theorem State.push_a (v : Byte) : (s.push v).a = s.a := rfl
@[simp] theorem State.push_x (v : Byte) : (s.push v).x = s.x := rfl
@[simp] theorem State.push_y (v : Byte) : (s.push v).y = s.y := rfl
@[simp] theorem State.push_sp (v : Byte) : (s.push v).sp = s.sp - 1 := rfl
@[simp] theorem State.push_pc (v : Byte) : (s.push v).pc = s.pc := rfl
@[simp] theorem State.push_p (v : Byte) : (s.push v).p = s.p := rfl
@[simp] theorem State.push_run (v : Byte) : (s.push v).run = s.run := rfl
@[simp] theorem State.push_fault (v : Byte) : (s.push v).fault = s.fault := rfl

/-- A push writes the cell SP names and no other. -/
theorem State.readByte_push (v : Byte) (k : Word) :
    (s.push v).readByte k = if k = stackAddr s.sp then v else s.readByte k := by
  simp [State.push, State.readByte_writeByte]

@[simp] theorem State.popState_a : s.popState.a = s.a := rfl
@[simp] theorem State.popState_x : s.popState.x = s.x := rfl
@[simp] theorem State.popState_y : s.popState.y = s.y := rfl
@[simp] theorem State.popState_sp : s.popState.sp = s.sp + 1 := rfl
@[simp] theorem State.popState_pc : s.popState.pc = s.pc := rfl
@[simp] theorem State.popState_p : s.popState.p = s.p := rfl
@[simp] theorem State.popState_mem : s.popState.mem = s.mem := rfl
@[simp] theorem State.popState_run : s.popState.run = s.run := rfl
@[simp] theorem State.popState_fault : s.popState.fault = s.fault := rfl
@[simp] theorem State.popState_readByte (k : Word) : s.popState.readByte k = s.readByte k := rfl

/-! ### Runs of byte writes -/

/-- A run of byte writes changes memory alone. -/
theorem State.writeBytes_fields (bs : List Byte) (s : State) (addr : Word) :
    (s.writeBytes addr bs).a = s.a ∧ (s.writeBytes addr bs).x = s.x ∧ (s.writeBytes addr bs).y = s.y ∧
    (s.writeBytes addr bs).sp = s.sp ∧ (s.writeBytes addr bs).pc = s.pc ∧ (s.writeBytes addr bs).p = s.p ∧
    (s.writeBytes addr bs).run = s.run ∧ (s.writeBytes addr bs).fault = s.fault := by
  induction bs generalizing s addr with
  | nil => simp [State.writeBytes]
  | cons b bs ih => simpa [State.writeBytes] using ih (s.writeByte addr b) (addr + 1)

/-- A run of byte writes leaves every byte outside it. -/
theorem State.readByte_writeBytes_other (bs : List Byte) (s : State) (addr k : Word)
    (h : ∀ i < bs.length, k ≠ addr + BitVec.ofNat 16 i) : (s.writeBytes addr bs).readByte k = s.readByte k := by
  induction bs generalizing s addr with
  | nil => rfl
  | cons b bs ih =>
    rw [State.writeBytes, ih]
    · exact State.readByte_writeByte_other _ (by simpa using h 0 (by simp))
    · intro i hi
      rw [show addr + 1 + BitVec.ofNat 16 i = addr + BitVec.ofNat 16 (i + 1) by
        rw [BitVec.ofNat_add, add_assoc, add_comm (1 : Word)]
        rfl]
      exact h (i + 1) (by simpa using hi)

/-! ### The engine's advance (spec/41_engine_step.md R123, R126) -/

@[simp] theorem complete_proceed (t : State) (pc0 : Word) (n : Nat) :
    (Effect.proceed t).complete pc0 n = (t.setPc (pc0 + BitVec.ofNat 16 n)).setRun .fetching := rfl

@[simp] theorem complete_redirect (t : State) (target pc0 : Word) (n : Nat) :
    (Effect.redirect t target).complete pc0 n = (t.setPc target).setRun .fetching := rfl

@[simp] theorem complete_halting (t : State) (pc0 : Word) (n : Nat) :
    (Effect.halting t).complete pc0 n = (t.setPc (pc0 + BitVec.ofNat 16 n)).setRun .halted := rfl

end Sys2Proof.Machine
end

