-- ==== Sys2Proof/Laws/Decode.lean ====
section
/-! SUPPORT. One lemma for each part of the decoder: the table lookup, the operand bytes, the decoded instruction. -/

namespace Sys2Proof

/-- What a lookup finds is a row of the table with that byte. -/
theorem lookupOpcode_some {T : OpcodeTable} {b : Byte} {d : Descriptor} (h : lookupOpcode T b = some d) :
    d ∈ T.rows ∧ d.opcodeByte = b :=
  ⟨List.mem_of_find?_eq_some h, by simpa using List.find?_some h⟩

/-- A lookup finds nothing exactly where no row has the byte. -/
theorem lookupOpcode_none {T : OpcodeTable} {b : Byte} :
    lookupOpcode T b = none ↔ ∀ d ∈ T.rows, d.opcodeByte ≠ b := by
  simp [lookupOpcode]

/-- Keys are unique, so a row is found by its own byte. -/
theorem lookupOpcode_row {T : OpcodeTable} {d : Descriptor} (hd : d ∈ T.rows) :
    lookupOpcode T d.opcodeByte = some d := by
  have hn := T.legal.1
  revert hd hn
  unfold lookupOpcode
  induction T.rows with
  | nil => simp
  | cons e rows ih =>
    intro hd hn
    simp only [List.map_cons, List.nodup_cons, List.mem_map] at hn
    rcases List.mem_cons.1 hd with rfl | hd
    · simp
    · have hne : (e.opcodeByte == d.opcodeByte) = false := by
        simpa using fun h : e.opcodeByte = d.opcodeByte => hn.1 ⟨d, hd, h.symm⟩
      rw [List.find?_cons, hne]
      exact ih hd hn.2

@[simp] theorem instrOf_mnemonic (m : Mnemonic) (o : Operand) : (instrOf m o).mnemonic = m := by cases m <;> rfl

@[simp] theorem instrOf_operand (m : Mnemonic) (o : Operand) : (instrOf m o).operand = o := by cases m <;> rfl

@[simp] theorem instrOf_self (i : Instr) : instrOf i.mnemonic i.operand = i := by cases i <;> rfl

/-- The operand bytes of an operand are one fewer than its length. -/
theorem encodeOperand_length (o : Operand) : (encodeOperand o).length + 1 = o.length := by cases o <;> rfl

/-- Operand bytes decode to the operand they encode, whatever follows. -/
theorem decodeOperand_encodeOperand (o : Operand) (rest : List Byte) :
    decodeOperand o.mode (encodeOperand o ++ rest) = some (o, rest) := by
  cases o <;> simp [encodeOperand, decodeOperand, Operand.mode]

/-- An operand that decodes is of the mode asked for, and its bytes are the ones taken. -/
theorem decodeOperand_some {mode : AddressingMode} {bs rest : List Byte} {o : Operand}
    (h : decodeOperand mode bs = some (o, rest)) : o.mode = mode ∧ bs = encodeOperand o ++ rest := by
  unfold decodeOperand at h
  split at h <;> simp at h <;> obtain ⟨rfl, rfl⟩ := h <;> simp [Operand.mode, encodeOperand]

/-- Three bytes are enough for every mode: two after the opcode. -/
theorem decodeOperand_two (mode : AddressingMode) (op1 op2 : Byte) :
    ∃ o rest, decodeOperand mode [op1, op2] = some (o, rest) := by
  cases mode <;> exact ⟨_, _, rfl⟩

/-- Everything a successful decode says. -/
theorem decodeWith_ok {T : OpcodeTable} {b : Byte} {bs rest : List Byte} {i : Instr}
    (h : decodeWith T (b :: bs) = .ok (i, rest)) :
    ∃ d ∈ T.rows, d.opcodeByte = b ∧ d.mnemonic = i.mnemonic ∧ d.addressingMode = i.operand.mode ∧
      bs = encodeOperand i.operand ++ rest := by
  simp only [decodeWith] at h
  split at h
  · simp at h
  · rename_i d hd
    split at h
    · simp at h
    · rename_i o r ho
      obtain ⟨rfl, rfl⟩ : instrOf d.mnemonic o = i ∧ r = rest := by simpa using h
      have hs := lookupOpcode_some hd
      have hb := decodeOperand_some ho
      exact ⟨d, hs.1, hs.2, by simp, by simp [hb.1], by simpa using hb.2⟩

/-- The row of a byte decides what its instruction decodes to. -/
theorem decodeWith_row {T : OpcodeTable} {d : Descriptor} {o : Operand} (hd : d ∈ T.rows)
    (ho : o.mode = d.addressingMode) (rest : List Byte) :
    decodeWith T (d.opcodeByte :: (encodeOperand o ++ rest)) = .ok (instrOf d.mnemonic o, rest) := by
  simp [decodeWith, lookupOpcode_row hd, ← ho, decodeOperand_encodeOperand]

end Sys2Proof
end

