-- ==== Sys2Proof/Laws/Operands.lean ====
section
/-! SUPPORT. The resolver by operand class, and everything a dispatch can do. -/

namespace Sys2Proof.Machine

/-! ### The resolver by class (spec/40_addressing_modes.md R114) -/

theorem operand_of_class_none {o : Operand} (h : operandClass o.mode = .none) : o = .implied := by
  cases o <;> simp_all [Operand.mode, operandClass]

theorem operand_of_class_acc {o : Operand} (h : operandClass o.mode = .acc) : o = .accumulator := by
  cases o <;> simp_all [Operand.mode, operandClass]

theorem operand_of_class_imm {o : Operand} (h : operandClass o.mode = .imm) : ∃ v, o = .immediate v := by
  cases o <;> simp_all [Operand.mode, operandClass]

theorem operand_of_class_ptr {o : Operand} (h : operandClass o.mode = .ptr) : ∃ w, o = .indirect w := by
  cases o <;> simp_all [Operand.mode, operandClass]

theorem operand_of_class_rel {o : Operand} (h : operandClass o.mode = .rel) : ∃ d, o = .relative d := by
  cases o <;> simp_all [Operand.mode, operandClass]

theorem resolve_of_class_mem {o : Operand} (h : operandClass o.mode = .mem) (s : State) :
    ∃ ea, resolve o s = .addr ea := by
  cases o <;> simp_all [Operand.mode, operandClass, resolve]

/-! ### Dispatch (spec/41_engine_step.md R123) -/

/-- A serviced mode whose handler has an effect completes. -/
theorem dispatch_serviced {m : Mnemonic} {o : Operand} {s : State} {h : Resolved → Option Effect} {e : Effect}
    (hs : services m o.mode = true) (he : h (resolve o s) = some e) :
    dispatch m o s h = .next (e.complete s.pc o.length) := by
  simp [dispatch, hs, he]

/-- An unserviced mode raises InvalidAddressingMode. -/
theorem dispatch_unserviced {m : Mnemonic} {o : Operand} {s : State} (h : Resolved → Option Effect)
    (hs : services m o.mode = false) : dispatch m o s h = .next (s.raise (invalidMode m o s)) := by
  simp [dispatch, hs]

/-- Everything a dispatch can do: complete the handler's effect, or raise the fault. -/
theorem dispatch_cases (m : Mnemonic) (o : Operand) (s : State) (h : Resolved → Option Effect) :
    (∃ e, services m o.mode = true ∧ h (resolve o s) = some e ∧ dispatch m o s h = .next (e.complete s.pc o.length)) ∨
    dispatch m o s h = .next (s.raise (invalidMode m o s)) := by
  by_cases hs : services m o.mode = true
  · cases he : h (resolve o s) with
    | none => exact .inr (by simp [dispatch, he])
    | some e => exact .inl ⟨e, hs, rfl, dispatch_serviced hs he⟩
  · exact .inr (dispatch_unserviced h (by simpa using hs))

/-- A dispatch that answers a next state: the handler's effect completed, or the fault taken. -/
theorem dispatch_next {m : Mnemonic} {o : Operand} {s t : State} {h : Resolved → Option Effect}
    (hd : dispatch m o s h = .next t) :
    (∃ e, services m o.mode = true ∧ h (resolve o s) = some e ∧ t = e.complete s.pc o.length) ∨
    t = s.raise (invalidMode m o s) := by
  rcases dispatch_cases m o s h with ⟨e, hs, he, hn⟩ | hn <;> rw [hd] at hn <;> injection hn with hn
  · exact .inl ⟨e, hs, he, hn⟩
  · exact .inr hn

/-- Everything a reading handler can do. -/
theorem dispatchRead_next {m : Mnemonic} {o : Operand} {s t : State} {f : Byte → State}
    (hd : dispatchRead m o s f = .next t) :
    (∃ v, services m o.mode = true ∧ operandRead (resolve o s) s = some v ∧
      t = ((f v).setPc (s.pc + BitVec.ofNat 16 o.length)).setRun .fetching) ∨
    t = s.raise (invalidMode m o s) := by
  rcases dispatch_next hd with ⟨e, hs, he, rfl⟩ | h
  · obtain ⟨v, hv, rfl⟩ := Option.map_eq_some_iff.1 he
    exact .inl ⟨v, hs, hv, rfl⟩
  · exact .inr h

/-- Everything a storing handler can do. -/
theorem dispatchWrite_next {m : Mnemonic} {o : Operand} {s t : State} {v : Byte}
    (hd : dispatchWrite m o s v = .next t) :
    (∃ u, services m o.mode = true ∧ operandWrite (resolve o s) v s = some u ∧
      t = (u.setPc (s.pc + BitVec.ofNat 16 o.length)).setRun .fetching) ∨
    t = s.raise (invalidMode m o s) := by
  rcases dispatch_next hd with ⟨e, hs, he, rfl⟩ | h
  · obtain ⟨u, hu, rfl⟩ := Option.map_eq_some_iff.1 he
    exact .inl ⟨u, hs, hu, rfl⟩
  · exact .inr h

/-- Everything a handler that reads and writes one place can do. -/
theorem dispatchModify_next {m : Mnemonic} {o : Operand} {s t : State} {f : Byte → Byte} {g : Byte → State → State}
    (hd : dispatchModify m o s f g = .next t) :
    (∃ v u, services m o.mode = true ∧ operandRead (resolve o s) s = some v ∧
      operandWrite (resolve o s) (f v) s = some u ∧
      t = ((g v u).setPc (s.pc + BitVec.ofNat 16 o.length)).setRun .fetching) ∨
    t = s.raise (invalidMode m o s) := by
  rcases dispatch_next hd with ⟨e, hs, he, rfl⟩ | h
  · obtain ⟨v, hv, he⟩ := Option.bind_eq_some_iff.1 he
    obtain ⟨u, hu, rfl⟩ := Option.map_eq_some_iff.1 he
    exact .inl ⟨v, u, hs, hv, hu, rfl⟩
  · exact .inr h

/-- Everything a handler without an operand can do. -/
theorem dispatchImplied_next {m : Mnemonic} {o : Operand} {s t : State} {e : Effect}
    (hd : dispatchImplied m o s e = .next t) :
    t = e.complete s.pc o.length ∨ t = s.raise (invalidMode m o s) := by
  rcases dispatch_next hd with ⟨e', -, he, rfl⟩ | h
  · split at he <;> simp_all
  · exact .inr h

/-- Everything a write of an operand can do: one byte of memory, or A. -/
theorem operandWrite_some {r : Resolved} {v : Byte} {s u : State} (h : operandWrite r v s = some u) :
    (∃ ea, r = .addr ea ∧ u = s.writeByte ea v) ∨ (r = .acc ∧ u = s.setA v) := by
  cases r <;> simp [operandWrite] at h
  · exact .inr ⟨rfl, h.symm⟩
  · exact .inl ⟨_, rfl, h.symm⟩

theorem dispatchRead_serviced {m : Mnemonic} {o : Operand} {s : State} {f : Byte → State} {v : Byte}
    (hs : services m o.mode = true) (hv : operandRead (resolve o s) s = some v) :
    dispatchRead m o s f = .next (((f v).setPc (s.pc + BitVec.ofNat 16 o.length)).setRun .fetching) := by
  rw [dispatchRead, dispatch_serviced hs (e := .proceed (f v)) (by simp [hv])]
  rfl

theorem dispatchWrite_serviced {m : Mnemonic} {o : Operand} {s t : State} {v : Byte}
    (hs : services m o.mode = true) (ht : operandWrite (resolve o s) v s = some t) :
    dispatchWrite m o s v = .next ((t.setPc (s.pc + BitVec.ofNat 16 o.length)).setRun .fetching) := by
  rw [dispatchWrite, dispatch_serviced hs (e := .proceed t) (by simp [ht])]
  rfl

theorem dispatchModify_serviced {m : Mnemonic} {o : Operand} {s t : State} {f : Byte → Byte} {g : Byte → State → State}
    {v : Byte} (hs : services m o.mode = true) (hv : operandRead (resolve o s) s = some v)
    (ht : operandWrite (resolve o s) (f v) s = some t) :
    dispatchModify m o s f g = .next (((g v t).setPc (s.pc + BitVec.ofNat 16 o.length)).setRun .fetching) := by
  rw [dispatchModify, dispatch_serviced hs (e := .proceed (g v t)) (by simp [hv, ht])]
  rfl

theorem dispatchImplied_serviced {m : Mnemonic} {s : State} (e : Effect) (hs : services m .implied = true) :
    dispatchImplied m .implied s e = .next (e.complete s.pc 1) := by
  rw [dispatchImplied, dispatch_serviced (e := e) (by simpa [Operand.mode] using hs) (by simp [resolve])]
  rfl

/-- The handlers that read an operand find one in every mode they service. -/
theorem operandRead_of_class {o : Operand} (s : State)
    (h : operandClass o.mode = .imm ∨ operandClass o.mode = .mem ∨ operandClass o.mode = .acc) :
    ∃ v, operandRead (resolve o s) s = some v := by
  cases o <;> simp_all [Operand.mode, operandClass, resolve, operandRead]

/-- The handlers that write an operand find a place in every mode they service. -/
theorem operandWrite_of_class {o : Operand} (v : Byte) (s : State)
    (h : operandClass o.mode = .mem ∨ operandClass o.mode = .acc) :
    ∃ t, operandWrite (resolve o s) v s = some t := by
  cases o <;> simp_all [Operand.mode, operandClass, resolve, operandWrite]

end Sys2Proof.Machine
end

