-- ==== Sys2Proof/Laws/PerInstr.lean ====
section
/-! SUPPORT. One lemma per constructor of Instr: a well-formed instruction encodes, to as many bytes as its length says. -/

namespace Sys2Proof.Laws.EncodesToLength

/-- A well-formed instruction has an encoding, an opcode byte followed by its operand bytes, of the instruction's length
(spec/30_encoding.md R81, R85). -/
def Statement (i : Instr) : Prop :=
  i.WellFormed → ∃ b operands, encode i = some (b :: operands) ∧ operands.length + 1 = i.length

/-- Every mode of a mnemonic has an opcode byte. -/
theorem encodeOpcode_of_mode {m : Mnemonic} {mode : AddressingMode} (h : mode ∈ m.modes) :
    ∃ b, encodeOpcode m mode = some b := by
  cases m <;> cases mode <;> first | exact ⟨_, rfl⟩ | simp [Mnemonic.modes] at h

/-- The statement of the mnemonic and the operand of an instruction. -/
theorem of_mnemonic (i : Instr) : Statement i := by
  intro h
  obtain ⟨b, hb⟩ := encodeOpcode_of_mode h
  exact ⟨b, encodeOperand i.operand, by rw [encode, hb]; rfl, encodeOperand_length i.operand⟩

theorem lda (o : Operand) : Statement (.lda o) := of_mnemonic (.lda o)
theorem ldx (o : Operand) : Statement (.ldx o) := of_mnemonic (.ldx o)
theorem ldy (o : Operand) : Statement (.ldy o) := of_mnemonic (.ldy o)
theorem sta (o : Operand) : Statement (.sta o) := of_mnemonic (.sta o)
theorem stx (o : Operand) : Statement (.stx o) := of_mnemonic (.stx o)
theorem sty (o : Operand) : Statement (.sty o) := of_mnemonic (.sty o)
theorem tax (o : Operand) : Statement (.tax o) := of_mnemonic (.tax o)
theorem tay (o : Operand) : Statement (.tay o) := of_mnemonic (.tay o)
theorem txa (o : Operand) : Statement (.txa o) := of_mnemonic (.txa o)
theorem tya (o : Operand) : Statement (.tya o) := of_mnemonic (.tya o)
theorem tsx (o : Operand) : Statement (.tsx o) := of_mnemonic (.tsx o)
theorem txs (o : Operand) : Statement (.txs o) := of_mnemonic (.txs o)
theorem inc (o : Operand) : Statement (.inc o) := of_mnemonic (.inc o)
theorem dec (o : Operand) : Statement (.dec o) := of_mnemonic (.dec o)
theorem inx (o : Operand) : Statement (.inx o) := of_mnemonic (.inx o)
theorem iny (o : Operand) : Statement (.iny o) := of_mnemonic (.iny o)
theorem dex (o : Operand) : Statement (.dex o) := of_mnemonic (.dex o)
theorem dey (o : Operand) : Statement (.dey o) := of_mnemonic (.dey o)
theorem adc (o : Operand) : Statement (.adc o) := of_mnemonic (.adc o)
theorem sbc (o : Operand) : Statement (.sbc o) := of_mnemonic (.sbc o)
theorem and (o : Operand) : Statement (.and o) := of_mnemonic (.and o)
theorem ora (o : Operand) : Statement (.ora o) := of_mnemonic (.ora o)
theorem eor (o : Operand) : Statement (.eor o) := of_mnemonic (.eor o)
theorem asl (o : Operand) : Statement (.asl o) := of_mnemonic (.asl o)
theorem lsr (o : Operand) : Statement (.lsr o) := of_mnemonic (.lsr o)
theorem rol (o : Operand) : Statement (.rol o) := of_mnemonic (.rol o)
theorem ror (o : Operand) : Statement (.ror o) := of_mnemonic (.ror o)
theorem pha (o : Operand) : Statement (.pha o) := of_mnemonic (.pha o)
theorem pla (o : Operand) : Statement (.pla o) := of_mnemonic (.pla o)
theorem php (o : Operand) : Statement (.php o) := of_mnemonic (.php o)
theorem plp (o : Operand) : Statement (.plp o) := of_mnemonic (.plp o)
theorem jmp (o : Operand) : Statement (.jmp o) := of_mnemonic (.jmp o)
theorem bcc (o : Operand) : Statement (.bcc o) := of_mnemonic (.bcc o)
theorem bcs (o : Operand) : Statement (.bcs o) := of_mnemonic (.bcs o)
theorem beq (o : Operand) : Statement (.beq o) := of_mnemonic (.beq o)
theorem bne (o : Operand) : Statement (.bne o) := of_mnemonic (.bne o)
theorem bmi (o : Operand) : Statement (.bmi o) := of_mnemonic (.bmi o)
theorem bpl (o : Operand) : Statement (.bpl o) := of_mnemonic (.bpl o)
theorem bvc (o : Operand) : Statement (.bvc o) := of_mnemonic (.bvc o)
theorem bvs (o : Operand) : Statement (.bvs o) := of_mnemonic (.bvs o)
theorem brk (o : Operand) : Statement (.brk o) := of_mnemonic (.brk o)

end Sys2Proof.Laws.EncodesToLength
end

