-- ==== Sys2Proof/Laws/Step.lean ====
section
/-! SUPPORT. What exec and step can do, once. -/

namespace Sys2Proof.Machine

/-- Every meaning is a dispatch of the instruction's own mnemonic and operand. -/
theorem exec_dispatch (i : Instr) (s : State) : ∃ h, exec i s = dispatch i.mnemonic i.operand s h := by
  cases i <;>
    (simp only [exec, Instr.mnemonic, Instr.operand, dispatchRead, dispatchWrite, dispatchModify, dispatchImplied,
      shiftOperand, branch,
      execLda, execLdx, execLdy, execSta, execStx, execSty, execTax, execTay, execTxa, execTya, execTsx, execTxs,
      execInc, execDec, execInx, execIny, execDex, execDey, execAdc, execSbc, execAnd, execOra, execEor, execAsl,
      execLsr, execRol, execRor, execPha, execPla, execPhp, execPlp, execJmp, execBcc, execBcs, execBeq, execBne,
      execBmi, execBpl, execBvc, execBvs, execBrk]
     exact ⟨_, rfl⟩)

/-- exec always answers a next state: the handler's effect completed, or the fault taken. -/
theorem exec_cases (i : Instr) (s : State) :
    (∃ e : Effect, services i.mnemonic i.operand.mode = true ∧
      exec i s = .next (e.complete s.pc i.operand.length)) ∨
    exec i s = .next (s.raise (invalidMode i.mnemonic i.operand s)) := by
  obtain ⟨h, hh⟩ := exec_dispatch i s
  rw [hh]
  rcases dispatch_cases i.mnemonic i.operand s h with ⟨e, hs, -, he⟩ | he
  · exact .inl ⟨e, hs, he⟩
  · exact .inr he

/-- Everything a branch can do: go to its target or to the next instruction, or raise the fault. -/
theorem branch_next {m : Mnemonic} {o : Operand} {s t : State} {cond : Bool} (hd : branch m o s cond = .next t) :
    (∃ target, resolve o s = .target target ∧
      t = (s.setPc (if cond then target else s.pc + BitVec.ofNat 16 o.length)).setRun .fetching) ∨
    t = s.raise (invalidMode m o s) := by
  rcases dispatch_next hd with ⟨e, -, he, rfl⟩ | h
  · split at he <;> simp at he
    subst he
    exact .inl ⟨_, ‹_›, by cases cond <;> rfl⟩
  · exact .inr h

/-- Everything JMP can do: go to its effective address, or raise the fault. -/
theorem execJmp_next {o : Operand} {s t : State} (hd : execJmp o s = .next t) :
    (∃ ea, resolve o s = .addr ea ∧ t = (s.setPc ea).setRun .fetching) ∨ t = s.raise (invalidMode .jmp o s) := by
  rcases dispatch_next hd with ⟨e, -, he, rfl⟩ | h
  · split at he <;> simp at he
    subst he
    exact .inl ⟨_, ‹_›, rfl⟩
  · exact .inr h

/-- An unserviced mode: the fault, whatever the instruction. -/
theorem exec_unserviced {i : Instr} (s : State) (hs : services i.mnemonic i.operand.mode = false) :
    exec i s = .next (s.raise (invalidMode i.mnemonic i.operand s)) := by
  obtain ⟨h, hh⟩ := exec_dispatch i s
  rw [hh, dispatch_unserviced h hs]

/-- Everything a step can do when it answers a next state. -/
theorem stepWith_cases {T : OpcodeTable} {s t : State} (h : stepWith T s = .next t) :
    (s.run = .fetching ∧ ∃ i rest, decodeWith T (fetchBytes s) = .ok (i, rest) ∧ exec i s = .next t) ∨
    (s.run = .fetching ∧ ∃ e, decodeWith T (fetchBytes s) = .error e ∧
      t = s.raise (.unimplementedOpcode (s.readByte s.pc) s.pc)) ∨
    ((s.run = .halted ∨ s.run = .faulted) ∧ t = s) := by
  unfold stepWith at h
  split at h
  · rename_i hr
    unfold fetchAndExec at h
    split at h
    · exact .inl ⟨hr, _, _, ‹_›, h⟩
    · exact .inr (.inl ⟨hr, _, ‹_›, by simpa using h.symm⟩)
  · exact .inr (.inr ⟨.inl ‹_›, by simpa using h.symm⟩)
  · exact .inr (.inr ⟨.inr ‹_›, by simpa using h.symm⟩)
  · simp at h
  · simp at h

end Sys2Proof.Machine
end

