-- ==== Sys2Proof/Tests/Slice0.lean ====
section
/-! SUPPORT. The model's own tests: well-formedness refusing ill-formed terms, decoding of words written out bit by bit,
single steps against spec/95_test_vectors.md, and for every obligation with hypotheses a state that meets them. -/

namespace Sys2Proof.Tests

-- One theorem after another: the many closed evaluations below else hold a thread and its stack each.
set_option Elab.async false

open Sys2Proof Sys2Proof.Machine Sys2Proof.Claims

/-! ### Helpers -/

/-- A running machine with these registers, memory cells and code at pc. -/
def start (pc : Word) (a x y sp p : Byte) (cells : List (Word × Byte)) (code : List Byte) : State :=
  State.writeBytes
    (cells.foldl (fun s c => State.writeByte s c.1 c.2)
      { a := a, x := x, y := y, sp := sp, pc := pc, p := p, mem := [], run := .fetching, fault := none })
    pc code

/-- The vectors' start: registers at their reset values, code at 0x8000. -/
def startCode (code : List Byte) : State := start 0x8000 0x00 0x00 0x00 0xFF 0x00 [] code

/-- The outcome is a next state with these registers, memory cells and run-state. -/
def ends (o : Host.Outcome State Fault Refusal) (a x y sp p : Byte) (pc : Word) (cells : List (Word × Byte))
    (r : RunState) : Bool :=
  match o with
  | .next t =>
    t.a == a && t.x == x && t.y == y && t.sp == sp && t.p == p && t.pc == pc && t.run == r &&
      cells.all (fun c => t.readByte c.1 == c.2)
  | .fault _ => false
  | .refused _ => false

/-- The outcome is exactly this next state. -/
def isNext (o : Host.Outcome State Fault Refusal) (t : State) : Bool :=
  match o with
  | .next u => u == t
  | .fault _ => false
  | .refused _ => false

/-- The outcome is exactly this refusal. -/
def isRefused (o : Host.Outcome State Fault Refusal) (r : Refusal) : Bool :=
  match o with
  | .next _ => false
  | .fault _ => false
  | .refused q => q == r

/-- A custom table with one row whose mode the handler does not service (spec/95_test_vectors.md 2.11). -/
def staAccumulator : OpcodeTable := ⟨[⟨0x85, .sta, 1, 3, .accumulator⟩], by decide⟩

/-- A custom table that gives LDA a mode the default table does not (spec/95_test_vectors.md 2.11). -/
def ldaZeroPageY : OpcodeTable := ⟨[⟨0xB6, .lda, 2, 4, .zeroPageY⟩], by decide⟩

/-- Parameters for host calls: the load address of spec/95_test_vectors.md, and the default rows. -/
def cfg8000 : Config := ⟨0x8000, defaultRows⟩

/-! ### WellFormed: an ill-formed term for the mode check of each family (spec/30_encoding.md R86, R89) -/

theorem test_illformed_sta_immediate : ¬(Instr.sta (.immediate 0x00)).WellFormed := by decide
theorem test_illformed_lda_zeroPageY : ¬(Instr.lda (.zeroPageY 0x00)).WellFormed := by decide
theorem test_illformed_ldx_zeroPageX : ¬(Instr.ldx (.zeroPageX 0x00)).WellFormed := by decide
theorem test_illformed_tax_accumulator : ¬(Instr.tax .accumulator).WellFormed := by decide
theorem test_illformed_inc_accumulator : ¬(Instr.inc .accumulator).WellFormed := by decide
theorem test_illformed_adc_relative : ¬(Instr.adc (.relative 0x00)).WellFormed := by decide
theorem test_illformed_eor_implied : ¬(Instr.eor .implied).WellFormed := by decide
theorem test_illformed_asl_absoluteY : ¬(Instr.asl (.absoluteY 0x0000)).WellFormed := by decide
theorem test_illformed_pha_immediate : ¬(Instr.pha (.immediate 0x00)).WellFormed := by decide
theorem test_illformed_jmp_absoluteX : ¬(Instr.jmp (.absoluteX 0x0000)).WellFormed := by decide
theorem test_illformed_bne_absolute : ¬(Instr.bne (.absolute 0x0000)).WellFormed := by decide
theorem test_illformed_encodes_to_nothing : encode (.sta (.immediate 0x00)) = none := by decide
theorem test_wellformed_indirect_any_address : (Instr.jmp (.indirect 0xFFFF)).WellFormed := by decide

/-! ### Decoding: every constructor's word, written out bit by bit from spec/30_encoding.md R81 and R86; operand words at
the top, opcode in bits 7 to 0 -/

theorem test_decode_load_store :
    decodeTableWord 16 0b1111111010100001 = some (.lda (.indirectX 0xFE)) ∧
    decodeTableWord 16 0b0100000010110001 = some (.lda (.indirectY 0x40)) ∧
    decodeTableWord 24 0b000100101111000010111101 = some (.lda (.absoluteX 0x12F0)) ∧
    decodeTableWord 16 0b1111000010110110 = some (.ldx (.zeroPageY 0xF0)) ∧
    decodeTableWord 16 0b0000000010100000 = some (.ldy (.immediate 0x00)) ∧
    decodeTableWord 16 0b0001000010010101 = some (.sta (.zeroPageX 0x10)) ∧
    decodeTableWord 16 0b0001000010000110 = some (.stx (.zeroPage 0x10)) ∧
    decodeTableWord 24 0b111111111111111110001100 = some (.sty (.absolute 0xFFFF)) := by decide +kernel

theorem test_decode_transfer :
    decodeTableWord 8 0b10101010 = some (.tax .implied) ∧ decodeTableWord 8 0b10101000 = some (.tay .implied) ∧
    decodeTableWord 8 0b10001010 = some (.txa .implied) ∧ decodeTableWord 8 0b10011000 = some (.tya .implied) ∧
    decodeTableWord 8 0b10111010 = some (.tsx .implied) ∧ decodeTableWord 8 0b10011010 = some (.txs .implied) := by
  decide +kernel

theorem test_decode_inc_dec :
    decodeTableWord 24 0b000000110000000011111110 = some (.inc (.absoluteX 0x0300)) ∧
    decodeTableWord 16 0b0001000011000110 = some (.dec (.zeroPage 0x10)) ∧
    decodeTableWord 8 0b11101000 = some (.inx .implied) ∧ decodeTableWord 8 0b11001000 = some (.iny .implied) ∧
    decodeTableWord 8 0b11001010 = some (.dex .implied) ∧ decodeTableWord 8 0b10001000 = some (.dey .implied) := by
  decide +kernel

theorem test_decode_arithmetic_and_logical :
    decodeTableWord 16 0b0101000001101001 = some (.adc (.immediate 0x50)) ∧
    decodeTableWord 24 0b000100100011010011111001 = some (.sbc (.absoluteY 0x1234)) ∧
    decodeTableWord 16 0b0001000000100101 = some (.and (.zeroPage 0x10)) ∧
    decodeTableWord 16 0b0001000000010001 = some (.ora (.indirectY 0x10)) ∧
    decodeTableWord 24 0b000000100000000001001101 = some (.eor (.absolute 0x0200)) := by decide +kernel

theorem test_decode_shift_rotate :
    decodeTableWord 8 0b00001010 = some (.asl .accumulator) ∧
    decodeTableWord 24 0b000000100000000001011110 = some (.lsr (.absoluteX 0x0200)) ∧
    decodeTableWord 16 0b0001000000110110 = some (.rol (.zeroPageX 0x10)) ∧
    decodeTableWord 24 0b000000100000000001101110 = some (.ror (.absolute 0x0200)) := by decide +kernel

theorem test_decode_stack :
    decodeTableWord 8 0b01001000 = some (.pha .implied) ∧ decodeTableWord 8 0b01101000 = some (.pla .implied) ∧
    decodeTableWord 8 0b00001000 = some (.php .implied) ∧ decodeTableWord 8 0b00101000 = some (.plp .implied) := by
  decide +kernel

theorem test_decode_control_flow :
    decodeTableWord 24 0b100100000000000001001100 = some (.jmp (.absolute 0x9000)) ∧
    decodeTableWord 24 0b000000101111111101101100 = some (.jmp (.indirect 0x02FF)) ∧
    decodeTableWord 16 0b1111110110010000 = some (.bcc (.relative 0xFD)) ∧
    decodeTableWord 16 0b1111110110110000 = some (.bcs (.relative 0xFD)) ∧
    decodeTableWord 16 0b1111110111110000 = some (.beq (.relative 0xFD)) ∧
    decodeTableWord 16 0b1111110111010000 = some (.bne (.relative 0xFD)) ∧
    decodeTableWord 16 0b1111110100110000 = some (.bmi (.relative 0xFD)) ∧
    decodeTableWord 16 0b1111110100010000 = some (.bpl (.relative 0xFD)) ∧
    decodeTableWord 16 0b1111110101010000 = some (.bvc (.relative 0xFD)) ∧
    decodeTableWord 16 0b1111110101110000 = some (.bvs (.relative 0xFD)) ∧
    decodeTableWord 8 0b00000000 = some (.brk .implied) := by decide +kernel

/-- The table gives operand bytes no bits: they are then zero. -/
theorem test_decode_opcode_alone : decodeTableWord 8 0b10111101 = some (.lda (.absoluteX 0x0000)) := by decide +kernel

/-- Bytes a 6502 decodes and this hardware does not (spec/30_encoding.md R88): NOP, CLC, JSR, CMP #. -/
theorem test_decode_absent :
    decodeTableWord 8 0xEA = none ∧ decodeTableWord 8 0x18 = none ∧ decodeTableWord 8 0x20 = none ∧
    decodeTableWord 8 0xC9 = none := by decide +kernel

/-! ### Single steps against the vectors: at most two for an instruction -/

/-! spec/95_test_vectors.md 2.3 load and store (spec/42_load_store.md R140 to R145). -/

theorem test_lda_indirectX_pointer_stays_in_zero_page :
    ends (step (start 0x8000 0x00 0x01 0x00 0xFF 0x00
      [(0x0000, 0x12), (0x00FF, 0x34), (0x0100, 0x56), (0x1234, 0x77), (0x5634, 0x88)] [0xA1, 0xFE]))
      0x77 0x01 0x00 0xFF 0x00 0x8002 [] .fetching := by decide +kernel
theorem test_lda_indirectY_pointer_and_sum_wrap :
    ends (step (start 0x8000 0x00 0x00 0x01 0xFF 0x00
      [(0x0000, 0xFF), (0x00FF, 0xFF), (0x0100, 0x20), (0x2100, 0x99)] [0xB1, 0xFF]))
      0xFF 0x00 0x01 0xFF 0x80 0x8002 [] .fetching := by decide +kernel
theorem test_ldx_zeroPageY_wraps :
    ends (step (start 0x8000 0x00 0x00 0x20 0xFF 0x00 [(0x0010, 0x80)] [0xB6, 0xF0]))
      0x00 0x80 0x20 0xFF 0x80 0x8002 [] .fetching := by decide +kernel
theorem test_ldx_absoluteY_sets_zero :
    ends (step (start 0x8000 0x00 0x09 0xFF 0xFF 0x00 [(0x20FF, 0x00)] [0xBE, 0x00, 0x20]))
      0x00 0x00 0xFF 0xFF 0x02 0x8003 [] .fetching := by decide +kernel
theorem test_ldy_zero :
    ends (step (start 0x8000 0x00 0x00 0x07 0xFF 0x00 [] [0xA0, 0x00]))
      0x00 0x00 0x00 0xFF 0x02 0x8002 [] .fetching := by decide +kernel
theorem test_ldy_zeroPageX_wraps :
    ends (step (start 0x8000 0x00 0xF0 0x00 0xFF 0x00 [(0x0000, 0x42)] [0xB4, 0x10]))
      0x00 0xF0 0x42 0xFF 0x00 0x8002 [] .fetching := by decide +kernel
theorem test_sta_keeps_flags :
    ends (step (start 0x8000 0x00 0xFF 0x00 0xFF 0x80 [] [0x95, 0x10]))
      0x00 0xFF 0x00 0xFF 0x80 0x8002 [(0x000F, 0x00), (0x010F, 0x00)] .fetching := by decide +kernel
theorem test_sta_indirectY_wraps_to_bottom :
    ends (step (start 0x8000 0xCD 0x00 0x10 0xFF 0x00 [(0x0020, 0xF8), (0x0021, 0xFF)] [0x91, 0x20]))
      0xCD 0x00 0x10 0xFF 0x00 0x8002 [(0x0008, 0xCD)] .fetching := by decide +kernel
theorem test_stx_keeps_flags :
    ends (step (start 0x8000 0x00 0xFF 0x00 0xFF 0x00 [] [0x86, 0x10]))
      0x00 0xFF 0x00 0xFF 0x00 0x8002 [(0x0010, 0xFF)] .fetching := by decide +kernel
theorem test_stx_zeroPageY_wraps :
    ends (step (start 0x8000 0x00 0x07 0x01 0xFF 0x00 [] [0x96, 0xFF]))
      0x00 0x07 0x01 0xFF 0x00 0x8002 [(0x0000, 0x07), (0x0100, 0x00)] .fetching := by decide +kernel
theorem test_sty_zeroPageX_wraps :
    ends (step (start 0x8000 0x00 0x02 0x07 0xFF 0x00 [] [0x94, 0xFF]))
      0x00 0x02 0x07 0xFF 0x00 0x8002 [(0x0001, 0x07), (0x0101, 0x00)] .fetching := by decide +kernel
theorem test_sty_top_of_memory :
    ends (step (start 0x8000 0x00 0x00 0x12 0xFF 0x00 [] [0x8C, 0xFF, 0xFF]))
      0x00 0x00 0x12 0xFF 0x00 0x8003 [(0xFFFF, 0x12)] .fetching := by decide +kernel

/-! spec/95_test_vectors.md 2.4 transfers (spec/43_transfer.md R150 to R155). -/

theorem test_tax_zero :
    ends (step (start 0x8000 0x00 0x09 0x00 0xFF 0x00 [] [0xAA]))
      0x00 0x00 0x00 0xFF 0x02 0x8001 [] .fetching := by decide +kernel
theorem test_tay_negative :
    ends (step (start 0x8000 0x80 0x00 0x00 0xFF 0x00 [] [0xA8]))
      0x80 0x00 0x80 0xFF 0x80 0x8001 [] .fetching := by decide +kernel
theorem test_txa_negative :
    ends (step (start 0x8000 0x01 0xFF 0x00 0xFF 0x00 [] [0x8A]))
      0xFF 0xFF 0x00 0xFF 0x80 0x8001 [] .fetching := by decide +kernel
theorem test_tya_zero :
    ends (step (start 0x8000 0x01 0x00 0x00 0xFF 0x00 [] [0x98]))
      0x00 0x00 0x00 0xFF 0x02 0x8001 [] .fetching := by decide +kernel
theorem test_tsx_negative :
    ends (step (start 0x8000 0x00 0x00 0x00 0xFF 0x00 [] [0xBA]))
      0x00 0xFF 0x00 0xFF 0x80 0x8001 [] .fetching := by decide +kernel
theorem test_tsx_zero :
    ends (step (start 0x8000 0x00 0x03 0x00 0x00 0x00 [] [0xBA]))
      0x00 0x00 0x00 0x00 0x02 0x8001 [] .fetching := by decide +kernel
theorem test_txs_keeps_negative :
    ends (step (start 0x8000 0x00 0x00 0x00 0xFF 0x80 [] [0x9A]))
      0x00 0x00 0x00 0x00 0x80 0x8001 [] .fetching := by decide +kernel
theorem test_txs_keeps_zero :
    ends (step (start 0x8000 0x00 0x80 0x00 0xFF 0x02 [] [0x9A]))
      0x00 0x80 0x00 0x80 0x02 0x8001 [] .fetching := by decide +kernel

/-! spec/95_test_vectors.md 2.5 increment and decrement (spec/44_inc_dec.md R160 to R165). -/

theorem test_inc_wraps_and_keeps_carry :
    ends (step (start 0x8000 0x00 0x00 0x00 0xFF 0x01 [(0x0010, 0xFF)] [0xE6, 0x10]))
      0x00 0x00 0x00 0xFF 0x03 0x8002 [(0x0010, 0x00)] .fetching := by decide +kernel
theorem test_inc_absoluteX :
    ends (step (start 0x8000 0x00 0xFF 0x00 0xFF 0x00 [(0x03FF, 0xFE)] [0xFE, 0x00, 0x03]))
      0x00 0xFF 0x00 0xFF 0x80 0x8003 [(0x03FF, 0xFF)] .fetching := by decide +kernel
theorem test_dec_wraps :
    ends (step (start 0x8000 0x00 0x00 0x00 0xFF 0x00 [(0x0300, 0x00)] [0xCE, 0x00, 0x03]))
      0x00 0x00 0x00 0xFF 0x80 0x8003 [(0x0300, 0xFF)] .fetching := by decide +kernel
theorem test_dec_keeps_overflow :
    ends (step (start 0x8000 0x00 0x01 0x00 0xFF 0x40 [(0x0011, 0x80)] [0xD6, 0x10]))
      0x00 0x01 0x00 0xFF 0x40 0x8002 [(0x0011, 0x7F)] .fetching := by decide +kernel
theorem test_inx_wraps :
    ends (step (start 0x8000 0x00 0xFF 0x33 0xFF 0x00 [] [0xE8]))
      0x00 0x00 0x33 0xFF 0x02 0x8001 [] .fetching := by decide +kernel
theorem test_iny_wraps :
    ends (step (start 0x8000 0x00 0x33 0xFF 0xFF 0x00 [] [0xC8]))
      0x00 0x33 0x00 0xFF 0x02 0x8001 [] .fetching := by decide +kernel
theorem test_dex_wraps :
    ends (step (start 0x8000 0x00 0x00 0x00 0xFF 0x00 [] [0xCA]))
      0x00 0xFF 0x00 0xFF 0x80 0x8001 [] .fetching := by decide +kernel
theorem test_dey_wraps :
    ends (step (start 0x8000 0x00 0x00 0x00 0xFF 0x00 [] [0x88]))
      0x00 0x00 0xFF 0xFF 0x80 0x8001 [] .fetching := by decide +kernel
theorem test_dey_clears_negative :
    ends (step (start 0x8000 0x00 0x00 0x80 0xFF 0x00 [] [0x88]))
      0x00 0x00 0x7F 0xFF 0x00 0x8001 [] .fetching := by decide +kernel

/-! spec/95_test_vectors.md 2.6 arithmetic (spec/45_arithmetic.md R170, R171, R173). -/

theorem test_adc_carry_overflow_zero :
    ends (step (start 0x8000 0x80 0x00 0x00 0xFF 0x00 [] [0x69, 0x80]))
      0x00 0x00 0x00 0xFF 0x43 0x8002 [] .fetching := by decide +kernel
theorem test_adc_binary_with_decimal_set :
    ends (step (start 0x8000 0x09 0x00 0x00 0xFF 0x08 [] [0x69, 0x01]))
      0x0A 0x00 0x00 0xFF 0x08 0x8002 [] .fetching := by decide +kernel
theorem test_sbc_overflow :
    ends (step (start 0x8000 0x80 0x00 0x00 0xFF 0x01 [] [0xE9, 0x01]))
      0x7F 0x00 0x00 0xFF 0x41 0x8002 [] .fetching := by decide +kernel
theorem test_sbc_binary_with_decimal_set :
    ends (step (start 0x8000 0x10 0x00 0x00 0xFF 0x0D [] [0xE9, 0x01]))
      0x0F 0x00 0x00 0xFF 0x0D 0x8002 [] .fetching := by decide +kernel

/-! spec/95_test_vectors.md 2.7 logical (spec/46_logical.md R180 to R182). -/

theorem test_and_memory_negative :
    ends (step (start 0x8000 0xFF 0x00 0x00 0xFF 0x00 [(0x0010, 0x80)] [0x25, 0x10]))
      0x80 0x00 0x00 0xFF 0x80 0x8002 [] .fetching := by decide +kernel
theorem test_ora_clears_negative :
    ends (step (start 0x8000 0x00 0x00 0x00 0xFF 0x80 [] [0x09, 0x00]))
      0x00 0x00 0x00 0xFF 0x02 0x8002 [] .fetching := by decide +kernel
theorem test_ora_indirectY :
    ends (step (start 0x8000 0x10 0x00 0x01 0xFF 0x00 [(0x0010, 0xFF), (0x0011, 0x02), (0x0300, 0x0F)] [0x11, 0x10]))
      0x1F 0x00 0x01 0xFF 0x00 0x8002 [] .fetching := by decide +kernel
theorem test_eor_negative :
    ends (step (start 0x8000 0x55 0x00 0x00 0xFF 0x00 [] [0x49, 0xFF]))
      0xAA 0x00 0x00 0xFF 0x80 0x8002 [] .fetching := by decide +kernel
theorem test_eor_keeps_carry_and_overflow :
    ends (step (start 0x8000 0xAA 0x00 0x05 0xFF 0x41 [(0x0205, 0xAA)] [0x59, 0x00, 0x02]))
      0x00 0x00 0x05 0xFF 0x43 0x8003 [] .fetching := by decide +kernel

/-! spec/95_test_vectors.md 2.8 shift and rotate (spec/47_shift_rotate.md R190 to R193). -/

theorem test_asl_ignores_carry :
    ends (step (start 0x8000 0x40 0x00 0x00 0xFF 0x01 [] [0x0A]))
      0x80 0x00 0x00 0xFF 0x80 0x8001 [] .fetching := by decide +kernel
theorem test_asl_memory :
    ends (step (start 0x8000 0x00 0x00 0x00 0xFF 0x00 [(0x0010, 0xFF)] [0x06, 0x10]))
      0x00 0x00 0x00 0xFF 0x81 0x8002 [(0x0010, 0xFE)] .fetching := by decide +kernel
theorem test_lsr_ignores_carry :
    ends (step (start 0x8000 0x80 0x00 0x00 0xFF 0x81 [] [0x4A]))
      0x40 0x00 0x00 0xFF 0x00 0x8001 [] .fetching := by decide +kernel
theorem test_lsr_memory :
    ends (step (start 0x8000 0x00 0x01 0x00 0xFF 0x00 [(0x0201, 0xFF)] [0x5E, 0x00, 0x02]))
      0x00 0x01 0x00 0xFF 0x01 0x8003 [(0x0201, 0x7F)] .fetching := by decide +kernel
theorem test_rol_carry_enters_bit0 :
    ends (step (start 0x8000 0x40 0x00 0x00 0xFF 0x01 [] [0x2A]))
      0x81 0x00 0x00 0xFF 0x80 0x8001 [] .fetching := by decide +kernel
theorem test_rol_memory_wraps :
    ends (step (start 0x8000 0x00 0xF1 0x00 0xFF 0x01 [(0x0001, 0x55)] [0x36, 0x10]))
      0x00 0xF1 0x00 0xFF 0x80 0x8002 [(0x0001, 0xAB)] .fetching := by decide +kernel
theorem test_ror_carry_enters_bit7 :
    ends (step (start 0x8000 0x00 0x00 0x00 0xFF 0x01 [] [0x6A]))
      0x80 0x00 0x00 0xFF 0x80 0x8001 [] .fetching := by decide +kernel
theorem test_ror_memory :
    ends (step (start 0x8000 0x00 0x00 0x00 0xFF 0x01 [(0x0200, 0x02)] [0x6E, 0x00, 0x02]))
      0x00 0x00 0x00 0xFF 0x80 0x8003 [(0x0200, 0x81)] .fetching := by decide +kernel

/-! spec/95_test_vectors.md 2.9 stack (spec/48_stack.md R202 to R205). -/

theorem test_pha_writes_then_decrements :
    ends (step (start 0x8000 0x42 0x00 0x00 0xFF 0x00 [] [0x48]))
      0x42 0x00 0x00 0xFE 0x00 0x8001 [(0x01FF, 0x42)] .fetching := by decide +kernel
theorem test_pha_wraps :
    ends (step (start 0x8000 0x99 0x00 0x00 0x00 0x00 [] [0x48]))
      0x99 0x00 0x00 0xFF 0x00 0x8001 [(0x0100, 0x99)] .fetching := by decide +kernel
theorem test_pla_wraps :
    ends (step (start 0x8000 0x00 0x00 0x00 0xFF 0x00 [(0x0100, 0x80)] [0x68]))
      0x80 0x00 0x00 0x00 0x80 0x8001 [] .fetching := by decide +kernel
theorem test_pla_keeps_carry_and_overflow :
    ends (step (start 0x8000 0x00 0x00 0x00 0x7F 0xC3 [(0x0180, 0x7F)] [0x68]))
      0x7F 0x00 0x00 0x80 0x41 0x8001 [] .fetching := by decide +kernel
theorem test_php_forces_break_unused :
    ends (step (start 0x8000 0x00 0x00 0x00 0x80 0xC3 [] [0x08]))
      0x00 0x00 0x00 0x7F 0xC3 0x8001 [(0x0180, 0xF3)] .fetching := by decide +kernel
theorem test_php_of_all_flags :
    ends (step (start 0x8000 0x00 0x00 0x00 0xFF 0xFF [] [0x08]))
      0x00 0x00 0x00 0xFE 0xFF 0x8001 [(0x01FF, 0xFF)] .fetching := by decide +kernel
theorem test_plp_clears_break_unused :
    ends (step (start 0x8000 0x00 0x00 0x00 0xFE 0x00 [(0x01FF, 0xFF)] [0x28]))
      0x00 0x00 0x00 0xFF 0xCF 0x8001 [] .fetching := by decide +kernel
theorem test_plp_wraps :
    ends (step (start 0x8000 0x00 0x00 0x00 0xFF 0x00 [(0x0100, 0x41)] [0x28]))
      0x00 0x00 0x00 0x00 0x41 0x8001 [] .fetching := by decide +kernel

/-! spec/95_test_vectors.md 2.10 control flow and halt (spec/49_control_flow_halt.md R210 to R220). -/

theorem test_jmp_to_itself :
    ends (step (start 0x8000 0x00 0x00 0x00 0xFF 0x00 [] [0x4C, 0x00, 0x80]))
      0x00 0x00 0x00 0xFF 0x00 0x8000 [] .fetching := by decide +kernel
theorem test_jmp_indirect_top_of_memory :
    ends (step (start 0x8000 0x00 0x00 0x00 0xFF 0x00
      [(0x0000, 0x33), (0xFF00, 0x22), (0xFFFF, 0x11)] [0x6C, 0xFF, 0xFF]))
      0x00 0x00 0x00 0xFF 0x00 0x2211 [] .fetching := by decide +kernel
theorem test_bcc_not_taken :
    ends (step (start 0x8000 0x00 0x00 0x00 0xFF 0x01 [] [0x90, 0xFD]))
      0x00 0x00 0x00 0xFF 0x01 0x8002 [] .fetching := by decide +kernel
theorem test_bcc_taken_all_other_flags :
    ends (step (start 0x8000 0x00 0x00 0x00 0xFF 0xCE [] [0x90, 0xFD]))
      0x00 0x00 0x00 0xFF 0xCE 0x7FFF [] .fetching := by decide +kernel
theorem test_bcs_taken :
    ends (step (start 0x8000 0x00 0x00 0x00 0xFF 0x01 [] [0xB0, 0xFD]))
      0x00 0x00 0x00 0xFF 0x01 0x7FFF [] .fetching := by decide +kernel
theorem test_bcs_not_taken_all_other_flags :
    ends (step (start 0x8000 0x00 0x00 0x00 0xFF 0xCE [] [0xB0, 0xFD]))
      0x00 0x00 0x00 0xFF 0xCE 0x8002 [] .fetching := by decide +kernel
theorem test_beq_taken :
    ends (step (start 0x8000 0x00 0x00 0x00 0xFF 0x02 [] [0xF0, 0xFD]))
      0x00 0x00 0x00 0xFF 0x02 0x7FFF [] .fetching := by decide +kernel
theorem test_beq_not_taken_all_other_flags :
    ends (step (start 0x8000 0x00 0x00 0x00 0xFF 0xCD [] [0xF0, 0xFD]))
      0x00 0x00 0x00 0xFF 0xCD 0x8002 [] .fetching := by decide +kernel
theorem test_bne_taken_all_other_flags :
    ends (step (start 0x8000 0x00 0x00 0x00 0xFF 0xCD [] [0xD0, 0xFD]))
      0x00 0x00 0x00 0xFF 0xCD 0x7FFF [] .fetching := by decide +kernel
theorem test_bne_wraps_below_zero :
    ends (step (start 0x0000 0x00 0x00 0x00 0xFF 0x00 [] [0xD0, 0x80]))
      0x00 0x00 0x00 0xFF 0x00 0xFF82 [] .fetching := by decide +kernel
theorem test_bmi_taken :
    ends (step (start 0x8000 0x00 0x00 0x00 0xFF 0x80 [] [0x30, 0xFD]))
      0x00 0x00 0x00 0xFF 0x80 0x7FFF [] .fetching := by decide +kernel
theorem test_bmi_not_taken_all_other_flags :
    ends (step (start 0x8000 0x00 0x00 0x00 0xFF 0x4F [] [0x30, 0xFD]))
      0x00 0x00 0x00 0xFF 0x4F 0x8002 [] .fetching := by decide +kernel
theorem test_bpl_not_taken :
    ends (step (start 0x8000 0x00 0x00 0x00 0xFF 0x80 [] [0x10, 0xFD]))
      0x00 0x00 0x00 0xFF 0x80 0x8002 [] .fetching := by decide +kernel
theorem test_bpl_taken_all_other_flags :
    ends (step (start 0x8000 0x00 0x00 0x00 0xFF 0x4F [] [0x10, 0xFD]))
      0x00 0x00 0x00 0xFF 0x4F 0x7FFF [] .fetching := by decide +kernel
theorem test_bvc_not_taken :
    ends (step (start 0x8000 0x00 0x00 0x00 0xFF 0x40 [] [0x50, 0xFD]))
      0x00 0x00 0x00 0xFF 0x40 0x8002 [] .fetching := by decide +kernel
theorem test_bvc_taken_all_other_flags :
    ends (step (start 0x8000 0x00 0x00 0x00 0xFF 0x8F [] [0x50, 0xFD]))
      0x00 0x00 0x00 0xFF 0x8F 0x7FFF [] .fetching := by decide +kernel
theorem test_bvs_taken :
    ends (step (start 0x8000 0x00 0x00 0x00 0xFF 0x40 [] [0x70, 0xFD]))
      0x00 0x00 0x00 0xFF 0x40 0x7FFF [] .fetching := by decide +kernel
theorem test_bvs_not_taken_all_other_flags :
    ends (step (start 0x8000 0x00 0x00 0x00 0xFF 0x8F [] [0x70, 0xFD]))
      0x00 0x00 0x00 0xFF 0x8F 0x8002 [] .fetching := by decide +kernel
theorem test_brk_pushes_nothing :
    ends (step (start 0x8000 0x01 0x02 0x03 0x80 0xC3 [] [0x00]))
      0x01 0x02 0x03 0x80 0xC3 0x8001 [(0x0180, 0x00), (0x017F, 0x00), (0x017E, 0x00)] .halted := by decide +kernel
theorem test_brk_at_top_of_memory :
    ends (step (start 0xFFFF 0x00 0x00 0x00 0xFF 0x00 [] [0x00]))
      0x00 0x00 0x00 0xFF 0x00 0x0000 [] .halted := by decide +kernel
/-! spec/95_test_vectors.md 2.11 faults (spec/60_exceptions.md R231, R232), 2.12 reset and load, 2.13 engine. -/

theorem test_absent_byte_faults_unchanged :
    isNext (step (start 0x8000 0x01 0x02 0x03 0x70 0x81 [] [0xFF]))
      (faultState (start 0x8000 0x01 0x02 0x03 0x70 0x81 [] [0xFF]) (.unimplementedOpcode 0xFF 0x8000)) := by
  decide +kernel

theorem test_absent_byte_at_top_of_memory :
    isNext (step (start 0xFFFF 0x00 0x00 0x00 0xFF 0x00 [] [0x02]))
      (faultState (start 0xFFFF 0x00 0x00 0x00 0xFF 0x00 [] [0x02]) (.unimplementedOpcode 0x02 0xFFFF)) := by
  decide +kernel

theorem test_unserviced_mode_faults_unchanged :
    isNext (stepWith staAccumulator (start 0x8000 0x11 0x00 0x00 0xFF 0x00 [] [0x85]))
      (faultState (start 0x8000 0x11 0x00 0x00 0xFF 0x00 [] [0x85])
        (.invalidAddressingMode .accumulator .sta 0x85 0x8000)) := by decide +kernel

theorem test_serviced_mode_off_the_default_table :
    ends (stepWith ldaZeroPageY (start 0x8000 0x00 0x00 0x01 0xFF 0x00 [(0x0000, 0x42)] [0xB6, 0xFF]))
      0x42 0x00 0x01 0xFF 0x00 0x8002 [] .fetching := by decide +kernel

theorem test_reset_after_a_fault :
    (faultState (start 0x8002 0x12 0x34 0x56 0x10 0xCF [(0xFFFC, 0x34), (0xFFFD, 0x12)] [])
      (.unimplementedOpcode 0xEA 0x8002)).doReset =
    start 0x1234 0x00 0x00 0x00 0xFF 0x00 [(0xFFFC, 0x34), (0xFFFD, 0x12)] [] := by decide +kernel

theorem test_load_vector_wins_and_image_wraps :
    (State.constructed 0 0 0 0 0 0).load 0xFFFA [0x11, 0x22, 0x33, 0x44, 0x55, 0x66, 0x77] =
    (State.constructed 0 0 0 0 0 0).writeBytes 0xFFFA [0x11, 0x22, 0xFA, 0xFF, 0x55, 0x66, 0x77] := by decide +kernel

theorem test_step_before_reset_refused : isRefused (step (State.constructed 0 0 0 0 0 0)) .stepBeforeReset := by
  decide +kernel

theorem test_step_in_halted_changes_nothing :
    isNext (step ((startCode [0xA9, 0x05]).setRun .halted)) ((startCode [0xA9, 0x05]).setRun .halted) := by
  decide +kernel

/-- The host's word is fetched and run as the first instruction after reset: LDA #$05 from its 16 bits. -/
theorem test_withFetchWord_runs :
    ends (step (State.reset.withFetchWord 16 0x05A9)) 0x05 0x00 0x00 0xFF 0x00 0x0002 [] .fetching := by
  decide +kernel

/-- An opcode alone has operand bytes of zero: JMP $0000. -/
theorem test_withFetchWord_opcode_alone :
    ends (step (State.reset.withFetchWord 8 0x4C)) 0x00 0x00 0x00 0xFF 0x00 0x0000 [] .fetching := by
  decide +kernel

/-! ### Witnesses: every obligation with hypotheses has a state that meets them, and each clause one at a boundary -/

theorem witness_DecodeOfEncode : (Instr.sta (.indirectY 0xFF)).WellFormed := by decide

theorem witness_EncodeOfDecode : decode [0x6C, 0xFF, 0x02, 0x00] = .ok (.jmp (.indirect 0x02FF), [0x00]) := rfl

theorem witness_DecodeIsOneTableLookup_row :
    (⟨0xFE, .inc, 3, 7, .absoluteX⟩ : Descriptor) ∈ defaultTable.rows := by decide +kernel

theorem witness_DecodeIsOneTableLookup_absent :
    (∀ d ∈ defaultTable.rows, d.opcodeByte ≠ 0xFF) ∧ (startCode [0xFF]).run = .fetching ∧
    (startCode [0xFF]).readByte (startCode [0xFF]).pc = 0xFF := by decide +kernel

theorem witness_AbsentBytesDoNotDecode : (0x02 : Byte) ∈ absentBytes ∧ (0xFF : Byte) ∈ absentBytes ∧
    (0x00 : Byte) ∉ absentBytes ∧ (0xFE : Byte) ∉ absentBytes := by decide

/-- An instruction across the top of memory. -/
theorem witness_OperandBytesFollowTheOpcode :
    decodeWith defaultTable (fetchBytes (start 0xFFFE 0 0 0 0xFF 0 [] [0xAD, 0x34, 0x12])) =
      .ok (.lda (.absolute 0x1234), []) := rfl

theorem witness_IndirectStaysInPointerPage : (0x02FE : Word).toNat % 256 ≠ 255 := by decide

theorem witness_ReadByteAfterWriteByte : (0xFFFF : Word) = 0xFFFF ∧ (0x0000 : Word) ≠ 0xFFFF := by decide

theorem witness_WordAccessIsLittleEndian : (0x0001 : Word) ≠ 0xFFFF ∧ (0x0001 : Word) ≠ 0xFFFF + 1 := by decide

theorem witness_CanonicalMemoriesAreDetermined :
    Memory.wf [(0, 1), (65535, 255)] ∧ Memory.wf (Memory.write [(0, 1)] 65535 255) ∧
    ∀ k, Memory.read [(0, 1), (65535, 255)] k = Memory.read (Memory.write [(0, 1)] 65535 255) k :=
  ⟨by decide, by decide, fun _ => rfl⟩

theorem witness_LoadsWriteTheirRegister : ReadableForm (.immediate 0x80) ∧ ReadableForm (.indirectY 0xFF) :=
  ⟨.inl rfl, .inr rfl⟩

theorem witness_AdcAddsWithCarry : ReadableForm (.indirectX 0xFF) := .inr rfl

theorem witness_SbcSubtractsWithBorrow : ReadableForm (.absoluteY 0xFFFF) := .inr rfl

theorem witness_LogicalOperationsOnAccumulator : ReadableForm (.zeroPage 0x00) := .inr rfl

theorem witness_StoresWriteOneByte : MemoryForm (.indirectX 0xFF) ∧ MemoryForm (.absolute 0xFFFF) := ⟨rfl, rfl⟩

theorem witness_IncDecStepOneByteOfMemory : MemoryForm (.absoluteX 0xFFFF) := rfl

theorem witness_ShiftsMoveOneBit : ShiftForm .accumulator ∧ ShiftForm (.absoluteX 0xFFFF) := ⟨.inl rfl, .inr rfl⟩

theorem witness_PushWritesThenDecrements :
    (0x0100 : Word).toNat = 0x0100 + (startCode []).popState.sp.toNat ∧
    (0x01FF : Word).toNat = 0x0100 + (startCode []).sp.toNat := by decide +kernel

theorem witness_PushInstructionsStoreOneByte : (0x01FF : Word).toNat = 0x0100 + (startCode [0x08]).sp.toNat := by
  decide +kernel

/-- SP at 0xFF: the pop wraps to 0x0100. -/
theorem witness_PullInstructionsReadOneByte :
    (0x0100 : Word).toNat = 0x0100 + ((startCode [0x68]).sp.toNat + 1) % 256 := by decide +kernel

theorem witness_StackRoundTrip : (List.replicate 256 (0xAA : Byte)).length ≤ 256 :=
  List.length_replicate.le

theorem witness_StepRunsDecodedInstruction :
    (startCode [0xB1, 0xFF]).run = .fetching ∧
    decode (fetchBytes (startCode [0xB1, 0xFF])) = .ok (.lda (.indirectY 0xFF), [0x00]) := ⟨by decide +kernel, rfl⟩

theorem witness_UnservicedModeFaults :
    (Instr.sta .accumulator).operand.mode ∉ servicedModes (Instr.sta .accumulator).mnemonic ∧
    (Instr.jmp (.absoluteX 0)).operand.mode ∉ servicedModes (Instr.jmp (.absoluteX 0)).mnemonic ∧
    (Instr.lda (.relative 0)).operand.mode ∉ servicedModes (Instr.lda (.relative 0)).mnemonic := by decide

theorem witness_ServicedModesComplete :
    (Instr.brk .implied).operand.mode ∈ servicedModes (Instr.brk .implied).mnemonic ∧
    (Instr.lda (.zeroPageY 0)).operand.mode ∈ servicedModes (Instr.lda (.zeroPageY 0)).mnemonic := by decide

theorem witness_DefaultTableRaisesOneFault :
    (startCode [0xEA]).run = .fetching ∧ (startCode [0xEA]).fault = none ∧
    ∃ t, step (startCode [0xEA]) = .next t ∧ t.fault = some (.unimplementedOpcode 0xEA 0x8000) :=
  ⟨by decide +kernel, by decide +kernel, _, rfl, by decide +kernel⟩

theorem witness_AbsentOpcodeFaultsUnchanged :
    (startCode [0xFF]).run = .fetching ∧ (startCode [0xFF]).readByte (startCode [0xFF]).pc ∈ absentBytes := by
  decide +kernel

theorem witness_FaultingStepIsAllOrNothing :
    (startCode [0x85]).run = .fetching ∧
    ∃ t, stepWith staAccumulator (startCode [0x85]) = .next t ∧ t.run = .faulted :=
  ⟨by decide +kernel, _, rfl, by decide +kernel⟩

theorem witness_StepIsTotalWhileFetching : (startCode [0xFF]).run = .fetching := by decide +kernel

/-- Redirected: JMP, and a branch that is taken. Advanced: a branch that is not. -/
theorem witness_PcIsRedirectedOrAdvanced :
    (Instr.bcs (.relative 0xFD)).operand.mode ∈ servicedModes (Instr.bcs (.relative 0xFD)).mnemonic ∧
    redirectTarget .jmp (.absolute 0x8000) (startCode []) = some 0x8000 ∧
    redirectTarget .bcc (.relative 0xFD) (startCode []) = some 0x7FFF ∧
    redirectTarget .bcs (.relative 0xFD) (startCode []) = none := by decide +kernel

theorem witness_TerminalStatesAbsorb :
    ((startCode []).setRun .halted).run = .halted ∧ ((startCode []).raise (.unimplementedOpcode 0 0)).run = .faulted ∧
    (State.constructed 0 0 0 0 0 0).run = .reset := by decide +kernel

theorem witness_OnlyBrkHalts :
    (startCode [0x00]).run = .fetching ∧ (startCode [0x00]).readByte (startCode [0x00]).pc = 0x00 ∧
    ∃ t, stepWith defaultTable (startCode [0x00]) = .next t ∧ t.run = .halted :=
  ⟨by decide +kernel, by decide +kernel, _, rfl, by decide +kernel⟩

theorem witness_RunReturnsOneState : ∃ t, Returns defaultTable (startCode [0x00]) t :=
  ⟨_, 1, rfl, .inl (by decide +kernel)⟩

theorem witness_FlagsWrittenByTheTable :
    (∃ t, exec (.inc (.zeroPage 0x10)) (startCode []) = .next t) ∧
    Flag.c ∉ flagsWritten (Instr.inc (.zeroPage 0x10)).mnemonic :=
  ⟨⟨_, rfl⟩, by decide⟩

/-- Each of the four registers is changed by some instruction. -/
theorem witness_RegistersWrittenByTheirInstructions :
    (∃ t, exec (.asl .accumulator) (start 0 0x01 0 0 0 0 [] []) = .next t ∧ t.a ≠ 0x01) ∧
    (∃ t, exec (.tsx .implied) (startCode []) = .next t ∧ t.x ≠ 0x00) ∧
    (∃ t, exec (.iny .implied) (startCode []) = .next t ∧ t.y ≠ 0x00) ∧
    (∃ t, exec (.txs .implied) (startCode []) = .next t ∧ t.sp ≠ 0xFF) :=
  ⟨⟨_, rfl, by decide +kernel⟩, ⟨_, rfl, by decide +kernel⟩, ⟨_, rfl, by decide +kernel⟩, ⟨_, rfl, by decide +kernel⟩⟩

/-- A storing form outside its byte, and a form that stores nothing. -/
theorem witness_AtMostOneByteStored :
    (∃ t, exec (.pha .implied) (startCode []) = .next t) ∧
    storeAddress (Instr.pha .implied).mnemonic (Instr.pha .implied).operand (startCode []) ≠ some 0x0100 ∧
    (∃ t, exec (.asl .accumulator) (startCode []) = .next t) ∧
    storeAddress (Instr.asl .accumulator).mnemonic (Instr.asl .accumulator).operand (startCode []) ≠ some 0x0000 :=
  ⟨⟨_, rfl⟩, by decide +kernel, ⟨_, rfl⟩, by decide +kernel⟩

/-- All four inert flags set beside a state that has none of them. -/
theorem witness_InertFlagsDoNotInterfere :
    (Instr.adc (.immediate 0x99)).mnemonic ≠ .php ∧ (Instr.adc (.immediate 0x99)).mnemonic ≠ .plp ∧
    (∀ f ∈ activeFlags, getFlag 0x3C f = (startCode []).flag f) ∧
    ∃ t, exec (.adc (.immediate 0x99)) (startCode []) = .next t :=
  ⟨by decide, by decide, by decide +kernel, _, rfl⟩

theorem witness_StepKeepsInvariant : State.reset.Inv ∧ ∃ t, step State.reset = .next t := ⟨by decide, _, rfl⟩

theorem witness_HostCallsKeepConsistency :
    (State.constructed 1 2 3 4 5 6).MemoryCanonical ∧ (State.constructed 1 2 3 4 5 6).RunStateConsistent ∧
    ∃ t, hostCall cfg8000 (.load [0xA9, 0x05]) (State.constructed 1 2 3 4 5 6) = .next t :=
  ⟨by decide, by decide, _, rfl⟩

/-- An image of the largest size; a byte inside the image and off the vector; an address outside it. -/
theorem witness_LoadPlacesImageAndVector :
    (List.replicate 65536 (0xEA : Byte)).length ≤ 65536 ∧
    (∃ (i : Nat) (_ : i < [0xA9, 0x05].length), cfg8000.loadAddr + BitVec.ofNat 16 i ≠ 0xFFFC ∧
      cfg8000.loadAddr + BitVec.ofNat 16 i ≠ 0xFFFD) ∧
    ((0x8002 : Word) ≠ 0xFFFC ∧ (0x8002 : Word) ≠ 0xFFFD ∧
      ∀ i < [0xA9, 0x05].length, (0x8002 : Word) ≠ cfg8000.loadAddr + BitVec.ofNat 16 i) :=
  ⟨List.length_replicate.le, ⟨1, by decide, by decide, by decide⟩, by decide⟩

theorem witness_IllegalHostCallsAreRefused :
    65536 < (List.replicate 65537 (0x00 : Byte)).length ∧ legalRows cfg8000.opcodeRows ∧
    ¬legalRows [⟨0x00, .brk, 2, 7, .implied⟩] ∧
    ¬legalRows [⟨0x00, .brk, 1, 7, .implied⟩, ⟨0x00, .tax, 1, 2, .implied⟩] :=
  ⟨by rw [List.length_replicate]; omega, by decide +kernel, by decide, by decide⟩

theorem witness_PokesTouchOnlyTheirTarget :
    Flag.c ≠ Flag.n ∧ (0x0001 : Word) ≠ 0xFFFF ∧ (0x0001 : Word) ≠ 0xFFFF + 1 := by decide

end Sys2Proof.Tests
end

section
/-! PROOF. The flag accessors as operations on one bit of the status byte (spec/10_state.md R38). -/

namespace Sys2Proof.Machine

/-- A flag's mask, the library's power of two as a byte. -/
theorem Flag.mask_eq_twoPow (f : Flag) : f.mask = BitVec.twoPow 8 f.bit := rfl

/-- A flag's mask as a number. -/
theorem Flag.mask_eq_ofNat (f : Flag) : f.mask = BitVec.ofNat 8 (2 ^ f.bit) :=
  BitVec.eq_of_toNat_eq (by rw [Flag.mask_eq_twoPow, BitVec.toNat_twoPow, BitVec.toNat_ofNat])

theorem Flag.mask_ne_zero (f : Flag) : f.mask ≠ 0 := by cases f <;> decide

theorem putFlag_true (p : Byte) (f : Flag) : putFlag p f true = p ||| f.mask := rfl

theorem putFlag_false (p : Byte) (f : Flag) : putFlag p f false = p &&& ~~~f.mask := rfl

/-- The and with a flag's mask is the mask itself where the flag is set, and zero where it is clear. -/
theorem and_mask (p : Byte) (f : Flag) : p &&& f.mask = if getFlag p f then f.mask else 0 :=
  BitVec.and_twoPow p f.bit

theorem getFlag_iff_and_mask_ne_zero (p : Byte) (f : Flag) : getFlag p f = true ↔ p &&& f.mask ≠ 0 := by
  rw [and_mask]
  cases getFlag p f
  · simp
  · simpa using f.mask_ne_zero

theorem hostCall_setFlag (cfg : Config) (f : Flag) (s : State) :
    hostCall cfg (.setFlag f) s = .next (s.setP (putFlag s.p f true)) := rfl

theorem hostCall_clearFlag (cfg : Config) (f : Flag) (s : State) :
    hostCall cfg (.clearFlag f) s = .next (s.setP (putFlag s.p f false)) := rfl

/-- Settles O17: the accessors are stated with the flag's mask, and the mask is the power of two at its bit. -/
theorem flagAccessorsTouchOneBit : Obligations.FlagAccessorsTouchOneBit := by
  unfold Obligations.FlagAccessorsTouchOneBit
  intro p f
  rw [← f.mask_eq_ofNat]
  exact ⟨putFlag_true p f, putFlag_false p f, getFlag_iff_and_mask_ne_zero p f,
    fun b g => getFlag_putFlag p f g b,
    fun cfg s => ⟨hostCall_setFlag cfg f s, hostCall_clearFlag cfg f s, rfl⟩⟩

end Sys2Proof.Machine
end

section
/-! PROOF. Byte and word access to memory (spec/20_memory.md R53 to R55). -/

namespace Sys2Proof.Machine

open Sys2Proof.Claims

/-! ### The cells a word covers -/

/-- The two cells of a word are distinct at every address, the last one included. -/
theorem addr_ne_addr_add_one (addr : Word) : addr ≠ addr + 1 := by bv_omega

variable (s : State)

/-- A byte read as a number is the memory's cell at the address as a number. -/
theorem State.readByte_toNat (addr : Word) : (s.readByte addr).toNat = byteAt s addr.toNat := rfl

/-- The byte after an address is the one at the next address modulo 65536. -/
theorem State.readByte_add_one_toNat (addr : Word) :
    (s.readByte (addr + 1)).toNat = byteAt s ((addr.toNat + 1) % 65536) := by
  rw [State.readByte_toNat, BitVec.toNat_add]
  rfl

theorem State.readWord_toNat (addr : Word) :
    (s.readWord addr).toNat = 256 * byteAt s ((addr.toNat + 1) % 65536) + byteAt s addr.toNat := by
  rw [State.readWord, word_toNat, State.readByte_add_one_toNat, State.readByte_toNat]

/-! ### Writes change memory alone -/

theorem State.writeByte_eq (addr : Word) (v : Byte) :
    s.writeByte addr v = { s with mem := Memory.write s.mem addr.toNat v } := rfl

theorem State.writeWord_eq (addr w : Word) :
    s.writeWord addr w = { s with mem := (s.writeWord addr w).mem } := rfl

/-! ### Reads after a word write -/

/-- The low byte, written first, is kept by the write of the high byte. -/
@[simp] theorem State.readByte_writeWord_low (addr w : Word) : (s.writeWord addr w).readByte addr = lo w := by
  rw [State.writeWord, State.readByte_writeByte_other _ (addr_ne_addr_add_one addr), State.readByte_writeByte_same]

@[simp] theorem State.readByte_writeWord_high (addr w : Word) :
    (s.writeWord addr w).readByte (addr + 1) = hi w :=
  State.readByte_writeByte_same _ _ _

theorem State.readByte_writeWord_other {s : State} {addr k : Word} (w : Word) (hlow : k ≠ addr)
    (hhigh : k ≠ addr + 1) : (s.writeWord addr w).readByte k = s.readByte k := by
  rw [State.writeWord, State.readByte_writeByte_other _ hhigh, State.readByte_writeByte_other _ hlow]

@[simp] theorem State.readWord_writeWord (addr w : Word) : (s.writeWord addr w).readWord addr = w := by
  rw [State.readWord, State.readByte_writeWord_high, State.readByte_writeWord_low, word_hi_lo]

/-! ### The obligations -/

/-- Settles O13: the memory list reads back what was written at the key and is unchanged at every other. -/
theorem readByteAfterWriteByte : Obligations.ReadByteAfterWriteByte := by
  unfold Obligations.ReadByteAfterWriteByte
  intro s addr k v
  exact ⟨State.readByte_writeByte s addr k v, _, State.writeByte_eq s addr v⟩

/-- Settles O14: the two cells of a word are distinct, so each half is read back from its own cell. -/
theorem wordAccessIsLittleEndian : Obligations.WordAccessIsLittleEndian := by
  unfold Obligations.WordAccessIsLittleEndian
  intro s addr w
  exact ⟨State.readWord_toNat s addr, State.readWord_writeWord s addr w,
    fun _ hlow hhigh => State.readByte_writeWord_other w hlow hhigh, _, State.writeWord_eq s addr w⟩

end Sys2Proof.Machine
end

section
/-! PROOF. The opcode table's lookup and the step at a byte no row has (spec/30_encoding.md R84). -/

namespace Sys2Proof.Machine

open Sys2Proof.Claims

/-- A byte no row has does not decode, whatever follows it. -/
theorem decodeWith_absent {T : OpcodeTable} {b : Byte} (h : lookupOpcode T b = none) (bs : List Byte) :
    decodeWith T (b :: bs) = .error (.unimplementedOpcode b) := by
  rw [decodeWith, h]

theorem State.raise_eq_faultState (s : State) (f : Fault) : s.raise f = faultState s f := rfl

theorem stepWith_fetching (T : OpcodeTable) {s : State} (hr : s.run = .fetching) :
    stepWith T s = fetchAndExec T s := by
  rw [stepWith, hr]

/-- Whatever stops the bytes at PC from decoding, the fault names the byte at PC. -/
theorem fetchAndExec_error {T : OpcodeTable} {s : State} {e : DecodeError}
    (h : decodeWith T (fetchBytes s) = .error e) :
    fetchAndExec T s = .next (faultState s (.unimplementedOpcode (s.readByte s.pc) s.pc)) := by
  rw [fetchAndExec, h, State.raise_eq_faultState]

theorem stepWith_absent {T : OpcodeTable} {s : State} (hr : s.run = .fetching)
    (h : lookupOpcode T (s.readByte s.pc) = none) :
    stepWith T s = .next (faultState s (.unimplementedOpcode (s.readByte s.pc) s.pc)) := by
  rw [stepWith_fetching T hr, fetchAndExec_error (decodeWith_absent h _)]

/-- Settles O4: unique keys make the row found the only one; a byte no row has fails the fetch's decode. -/
theorem decodeIsOneTableLookup : Obligations.DecodeIsOneTableLookup := by
  unfold Obligations.DecodeIsOneTableLookup
  intro T b
  constructor
  · rintro d hd rfl
    exact lookupOpcode_row hd
  · intro habsent
    have hnone : lookupOpcode T b = none := lookupOpcode_none.2 habsent
    refine ⟨hnone, ?_⟩
    rintro s hr rfl
    exact stepWith_absent hr hnone

end Sys2Proof.Machine
end

section
/-! PROOF. The effective address of each memory mode (spec/40_addressing_modes.md R104, R105, R108 to R111). -/

namespace Sys2Proof.Machine

open Sys2Proof.Claims

/-! ### Sums with an index -/

/-- A widened byte is an address in the zero page. -/
theorem zext16_toNat_le (b : Byte) : (zext16 b).toNat ≤ 0x00FF := by
  rw [zext16_toNat]
  exact Nat.le_of_lt_succ b.isLt

/-- An index added before widening wraps inside the zero page. -/
theorem zext16_add_toNat (b i : Byte) : (zext16 (b + i)).toNat = (b.toNat + i.toNat) % 256 := by
  rw [zext16_toNat, BitVec.toNat_add]

/-- An index added after widening wraps at the top of memory. -/
theorem add_zext16_toNat (w : Word) (i : Byte) : (w + zext16 i).toNat = (w.toNat + i.toNat) % 65536 := by
  rw [BitVec.toNat_add, zext16_toNat]

/-! ### The zero-page pointer -/

/-- Both bytes of a zero-page pointer lie in the zero page: the high byte's address wraps modulo 256. -/
theorem State.readZP_toNat (s : State) (p : Byte) :
    (s.readZP p).toNat = 256 * byteAt s ((p.toNat + 1) % 256) + byteAt s p.toNat := by
  have hhigh : (zext16 (p + 1)).toNat = (p.toNat + 1) % 256 := zext16_add_toNat p 1
  rw [State.readZP, word_toNat, State.readByte_toNat, State.readByte_toNat, hhigh, zext16_toNat]

/-- A pointer whose place is itself a sum: the index is added first, and both addresses wrap modulo 256. -/
theorem State.readZP_add_toNat (s : State) (b i : Byte) :
    (s.readZP (b + i)).toNat =
      256 * byteAt s ((b.toNat + i.toNat + 1) % 256) + byteAt s ((b.toNat + i.toNat) % 256) := by
  rw [State.readZP_toNat, BitVec.toNat_add, Nat.mod_add_mod]

/-! ### The resolver at each memory mode -/

section

variable (b : Byte) (w : Word) (s : State)

theorem resolve_zeroPage : resolve (.zeroPage b) s = .addr (zext16 b) := rfl
theorem resolve_zeroPageX : resolve (.zeroPageX b) s = .addr (zext16 (b + s.x)) := rfl
theorem resolve_zeroPageY : resolve (.zeroPageY b) s = .addr (zext16 (b + s.y)) := rfl
theorem resolve_absolute : resolve (.absolute w) s = .addr w := rfl
theorem resolve_absoluteX : resolve (.absoluteX w) s = .addr (w + zext16 s.x) := rfl
theorem resolve_absoluteY : resolve (.absoluteY w) s = .addr (w + zext16 s.y) := rfl
theorem resolve_indirectX : resolve (.indirectX b) s = .addr (s.readZP (b + s.x)) := rfl
theorem resolve_indirectY : resolve (.indirectY b) s = .addr (s.readZP b + zext16 s.y) := rfl

end

/-! ### The obligations -/

/-- Settles O7: the index is added to the byte, before it is widened to an address. -/
theorem zeroPageModesWrapAt256 : Obligations.ZeroPageModesWrapAt256 := by
  unfold Obligations.ZeroPageModesWrapAt256
  intro b s
  exact ⟨⟨_, resolve_zeroPage b s, zext16_toNat b, zext16_toNat_le b⟩,
    ⟨_, resolve_zeroPageX b s, zext16_add_toNat b s.x, zext16_toNat_le _⟩,
    ⟨_, resolve_zeroPageY b s, zext16_add_toNat b s.y, zext16_toNat_le _⟩, rfl, rfl, rfl⟩

/-- Settles O8: the index is widened first, so the sum is one of words. -/
theorem absoluteModesWrapAt65536 : Obligations.AbsoluteModesWrapAt65536 := by
  unfold Obligations.AbsoluteModesWrapAt65536
  intro w s
  exact ⟨resolve_absolute w s, ⟨_, resolve_absoluteX w s, add_zext16_toNat w s.x⟩,
    ⟨_, resolve_absoluteY w s, add_zext16_toNat w s.y⟩, rfl, rfl, rfl⟩

/-- Settles O9: the pointer's place is the sum of two bytes, and the pointer is the address. -/
theorem indirectXReadsZeroPagePointer : Obligations.IndirectXReadsZeroPagePointer := by
  unfold Obligations.IndirectXReadsZeroPagePointer
  intro b s
  exact ⟨_, resolve_indirectX b s, State.readZP_add_toNat s b s.x, rfl⟩

/-- Settles O10: the pointer's place is the operand byte, and Y is added to the word read there. -/
theorem indirectYAddsIndexToPointer : Obligations.IndirectYAddsIndexToPointer := by
  unfold Obligations.IndirectYAddsIndexToPointer
  intro b s
  refine ⟨_, resolve_indirectY b s, ?_, rfl⟩
  rw [add_zext16_toNat, State.readZP_toNat]

end Sys2Proof.Machine
end

section
/-! PROOF. What a step that faults changes (spec/41_engine_step.md R128). -/

namespace Sys2Proof.Machine

/-- Completion sets the run-state from the halt class alone, whatever state the handler left. -/
theorem Effect.complete_run (e : Effect) (pc0 : Word) (n : Nat) :
    (e.complete pc0 n).run = if e.halt then .halted else .fetching := State.setRun_run _ _

/-- A handler that completes does not fault. -/
theorem Effect.complete_run_ne_faulted (e : Effect) (pc0 : Word) (n : Nat) :
    (e.complete pc0 n).run ≠ .faulted := by
  rw [Effect.complete_run]
  split <;> decide

/-- The only fault an instruction takes is the one of its mode, raised on the state before it. -/
theorem exec_faulted {i : Instr} {s t : State} (h : exec i s = .next t) (hf : t.run = .faulted) :
    t = s.raise (invalidMode i.mnemonic i.operand s) := by
  rcases exec_cases i s with ⟨e, -, he⟩ | hraise
  case inl =>
    rw [h] at he
    injection he with ht
    exact absurd (ht ▸ hf) (e.complete_run_ne_faulted s.pc i.operand.length)
  case inr =>
    rw [h] at hraise
    injection hraise

/-- Settles O41: bytes that do not decode and a mode that is not serviced both fault on the fetched state itself; a
handler that ran has completed without a fault. -/
theorem faultingStepIsAllOrNothing : Obligations.FaultingStepIsAllOrNothing := by
  unfold Obligations.FaultingStepIsAllOrNothing
  intro T s t hr hstep hf
  rcases stepWith_cases hstep with ⟨-, i, _, -, hexec⟩ | ⟨-, _, -, hraise⟩ | ⟨hstopped, -⟩
  · exact ⟨_, (exec_faulted hexec hf).trans (s.raise_eq_faultState _)⟩
  · exact ⟨_, hraise.trans (s.raise_eq_faultState _)⟩
  · simp [hr] at hstopped

end Sys2Proof.Machine
end

section
/-! PROOF. The stack engine's push and pop (spec/48_stack.md R200, R201). -/

namespace Sys2Proof.Machine

open Sys2Proof.Claims

/-- The address SP names is the only one with that number. -/
theorem eq_stackAddr {addr : Word} {sp : Byte} (h : addr.toNat = 0x0100 + sp.toNat) : addr = stackAddr sp :=
  BitVec.eq_of_toNat_eq (h.trans (stackAddr_toNat sp).symm)

variable (s : State)

/-- SP moves down modulo 256: below 0x00 it wraps to 0xFF. -/
theorem State.push_sp_toNat (v : Byte) : (s.push v).sp.toNat = (s.sp.toNat + 255) % 256 := by
  rw [State.push_sp, BitVec.toNat_sub, Nat.add_comm]
  rfl

/-- SP moves up modulo 256: above 0xFF it wraps to 0x00. -/
theorem State.popState_sp_toNat : s.popState.sp.toNat = (s.sp.toNat + 1) % 256 := by
  rw [State.popState_sp, BitVec.toNat_add]
  rfl

/-- The byte is stored where SP points before the decrement, and no other cell changes. -/
theorem State.push_memoryStored (v : Byte) : MemoryStored s (s.push v) (stackAddr s.sp) v := by
  constructor
  · rw [State.readByte_push, if_pos rfl]
  · intro k hk
    rw [State.readByte_push, if_neg hk]

/-- A push changes memory and SP alone. -/
theorem State.push_eq (v : Byte) :
    s.push v = { s with mem := Memory.write s.mem (stackAddr s.sp).toNat v, sp := s.sp - 1 } := rfl

/-- A pop changes SP alone. -/
theorem State.popState_eq : s.popState = { s with sp := s.sp + 1 } := rfl

/-- A pop reads the cell SP names once it has moved. -/
theorem State.popValue_eq : s.popValue = s.readByte (stackAddr s.popState.sp) := rfl

theorem State.popValue_toNat : s.popValue.toNat = byteAt s (0x0100 + (s.sp.toNat + 1) % 256) := by
  rw [State.popValue_eq, State.readByte_toNat, stackAddr_toNat, State.popState_sp_toNat]

/-! ### The obligations -/

/-- Settles O28: the cell written is the one SP names before the decrement, in the stack page for every SP. -/
theorem pushWritesThenDecrements : Obligations.PushWritesThenDecrements := by
  unfold Obligations.PushWritesThenDecrements
  intro s v addr haddr
  obtain rfl := eq_stackAddr haddr
  exact ⟨State.push_memoryStored s v, State.push_sp_toNat s v, _, _, State.push_eq s v⟩

/-- Settles O29: the cell read is the one SP names after the increment. -/
theorem popIncrementsThenReads : Obligations.PopIncrementsThenReads := by
  unfold Obligations.PopIncrementsThenReads
  intro s
  exact ⟨State.popState_sp_toNat s, State.popValue_toNat s, _, State.popState_eq s⟩

end Sys2Proof.Machine
end

section
/-! PROOF. The default table against the encoder, and what a decode takes from memory (spec/30_encoding.md R81 to
R88). -/

namespace Sys2Proof

/-! ### The rows of the default table and the Encoding lines -/

/-- A row of the default table is a pair the Encoding lines give, under the byte they give it. -/
theorem encodeOpcode_of_row : ∀ d ∈ defaultTable.rows,
    d.addressingMode ∈ d.mnemonic.modes ∧ encodeOpcode d.mnemonic d.addressingMode = some d.opcodeByte := by
  decide +kernel

/-- A pair the Encoding lines give has a row of the default table. -/
theorem row_of_mode (m : Mnemonic) : ∀ mode ∈ m.modes,
    ∃ d ∈ defaultTable.rows, d.mnemonic = m ∧ d.addressingMode = mode := by
  cases m <;> decide +kernel

/-- An instruction with a row encodes to the row's byte and its operand bytes. -/
theorem encode_of_row {d : Descriptor} {i : Instr} (hd : d ∈ defaultTable.rows) (hm : d.mnemonic = i.mnemonic)
    (hmode : d.addressingMode = i.operand.mode) : encode i = some (d.opcodeByte :: encodeOperand i.operand) := by
  rw [encode, ← hm, ← hmode, (encodeOpcode_of_row d hd).2]
  rfl

theorem wellFormed_of_row {d : Descriptor} {i : Instr} (hd : d ∈ defaultTable.rows) (hm : d.mnemonic = i.mnemonic)
    (hmode : d.addressingMode = i.operand.mode) : i.WellFormed := by
  rw [Instr.WellFormed, ← hm, ← hmode]
  exact (encodeOpcode_of_row d hd).1

/-- An instruction the default table decodes is well-formed. -/
theorem wellFormed_of_decode {bs rest : List Byte} {i : Instr} (h : decode bs = .ok (i, rest)) : i.WellFormed := by
  cases bs with
  | nil => cases h
  | cons b bs =>
    obtain ⟨d, hd, -, hm, hmode, -⟩ := decodeWith_ok h
    exact wellFormed_of_row hd hm hmode

/-- Settles O1: the instruction's pair has a row of the default table, and that row's byte leads back to it. -/
theorem decodeOfEncode : Obligations.DecodeOfEncode := by
  unfold Obligations.DecodeOfEncode
  intro i rest hwf
  obtain ⟨d, hd, hm, hmode⟩ := row_of_mode i.mnemonic i.operand.mode hwf
  refine ⟨_, encode_of_row hd hm hmode, encodeOperand_length i.operand, ?_⟩
  have h := decodeWith_row hd hmode.symm rest
  rwa [hm, instrOf_self] at h

/-- Settles O2: the row a decode went through is the one the encoder's byte stands in. -/
theorem encodeOfDecode : Obligations.EncodeOfDecode := by
  unfold Obligations.EncodeOfDecode
  intro bs i rest h
  refine ⟨wellFormed_of_decode h, ?_⟩
  cases bs with
  | nil => cases h
  | cons b bs =>
    obtain ⟨d, hd, rfl, hm, hmode, rfl⟩ := decodeWith_ok h
    exact ⟨_, encode_of_row hd hm hmode, rfl⟩

/-- Settles O3: each word is decoded by the default table. -/
theorem writtenWordsDecode : Obligations.WrittenWordsDecode := by
  unfold Obligations.WrittenWordsDecode
  exact ⟨rfl, rfl, rfl, rfl, rfl, rfl, rfl, rfl, rfl, rfl, rfl⟩

/-! ### The bytes without a row -/

/-- A decode fails with the error that names the byte exactly where the table has no row for it; a byte with a row
can only want operand bytes. -/
theorem decodeWith_unimplemented_iff {T : OpcodeTable} {b : Byte} {bs : List Byte} :
    decodeWith T (b :: bs) = .error (.unimplementedOpcode b) ↔ lookupOpcode T b = none := by
  refine ⟨fun h => ?_, fun h => Machine.decodeWith_absent h bs⟩
  rw [decodeWith] at h
  split at h
  · assumption
  · split at h <;> simp at h

/-- The set of a list's bytes as a word, bit b for byte b, so that two lists are compared in one comparison. -/
def byteSet (bs : List Byte) : BitVec 256 := bs.foldr (fun b set => BitVec.twoPow 256 b.toNat ||| set) 0

theorem getLsbD_byteSet (bs : List Byte) (b : Byte) : (byteSet bs).getLsbD b.toNat = decide (b ∈ bs) := by
  induction bs with
  | nil => simp [byteSet]
  | cons c bs ih =>
    have hc : c.toNat < 256 := c.isLt
    rw [byteSet, List.foldr_cons, ← byteSet, BitVec.getLsbD_or, ih, BitVec.getLsbD_twoPow]
    simp [BitVec.toNat_inj, hc, eq_comm]

/-- The absent bytes are the complement of the bytes with a row. -/
theorem byteSet_absentBytes :
    byteSet Claims.absentBytes = ~~~byteSet (defaultRows.map (·.opcodeByte)) := by
  decide +kernel

/-- The default table has no row for exactly the bytes of R88. -/
theorem lookupOpcode_none_iff_absent (b : Byte) :
    lookupOpcode defaultTable b = none ↔ b ∈ Claims.absentBytes := by
  have hb : b.toNat < 256 := b.isLt
  have h := congrArg (·.getLsbD b.toNat) byteSet_absentBytes
  simp only [BitVec.getLsbD_not, getLsbD_byteSet, hb, decide_true, Bool.true_and] at h
  rw [lookupOpcode_none, ← decide_eq_true_iff (p := b ∈ Claims.absentBytes), h]
  simp [defaultTable]

/-- Settles O5: the default table has no row for exactly the bytes of the list. -/
theorem absentBytesDoNotDecode : Obligations.AbsentBytesDoNotDecode := by
  unfold Obligations.AbsentBytesDoNotDecode
  exact ⟨rfl, fun b _ => decodeWith_unimplemented_iff.trans (lookupOpcode_none_iff_absent b)⟩

/-! ### The bytes a step decodes -/

/-- Settles O6: the operand bytes of what is decoded are the first of the two bytes after the opcode. -/
theorem operandBytesFollowTheOpcode : Obligations.OperandBytesFollowTheOpcode := by
  unfold Obligations.OperandBytesFollowTheOpcode
  intro T s i rest h
  obtain ⟨d, hd, hbyte, hm, hmode, hbytes⟩ := decodeWith_ok h
  refine ⟨⟨d, hd, hbyte, hm, hmode, ?_⟩, ?_⟩
  · rw [T.legal.2 d hd, hmode, Instr.length, Operand.length]
  · have hlen : i.length - 1 = (encodeOperand i.operand).length := by
      rw [Instr.length, ← encodeOperand_length, Nat.add_sub_cancel]
    rw [hbytes, hlen, List.take_left]

end Sys2Proof
end

section
/-! PROOF. What the handlers can do, once for all 41 of them: which modes they service, the state each leaves before
the engine completes it, and the completion (spec/40_addressing_modes.md R117, spec/41_engine_step.md R123 to R127). -/

namespace Sys2Proof.Machine

open Sys2Proof.Claims

/-! ### The serviced modes, class by class -/

theorem operandClass_none_iff {mode : AddressingMode} : operandClass mode = .none ↔ mode = .implied := by
  cases mode <;> decide

theorem operandClass_acc_iff {mode : AddressingMode} : operandClass mode = .acc ↔ mode = .accumulator := by
  cases mode <;> decide

theorem operandClass_imm_iff {mode : AddressingMode} : operandClass mode = .imm ↔ mode = .immediate := by
  cases mode <;> decide

theorem operandClass_mem_iff {mode : AddressingMode} : operandClass mode = .mem ↔ mode ∈ memModes := by
  cases mode <;> decide

theorem operandClass_ptr_iff {mode : AddressingMode} : operandClass mode = .ptr ↔ mode = .indirect := by
  cases mode <;> decide

theorem operandClass_rel_iff {mode : AddressingMode} : operandClass mode = .rel ↔ mode = .relative := by
  cases mode <;> decide

/-- The handlers' check of the operand class is the written-out list of modes. -/
theorem services_iff {m : Mnemonic} {mode : AddressingMode} :
    services m mode = true ↔ mode ∈ servicedModes m := by
  cases m <;>
    simp [services, servicedModes, operandClass_none_iff, operandClass_acc_iff, operandClass_imm_iff,
      operandClass_mem_iff, operandClass_ptr_iff, operandClass_rel_iff]

/-- Every pair of the default table is serviced. -/
theorem services_of_mode (m : Mnemonic) : ∀ mode ∈ m.modes, services m mode = true := by
  cases m <;> decide

/-! ### The families of mnemonics (spec/40_addressing_modes.md R117) -/

/-- The handlers that read an operand. -/
def readers : List Mnemonic := [.lda, .ldx, .ldy, .adc, .sbc, .and, .ora, .eor]

/-- The handlers that store a register. -/
def stores : List Mnemonic := [.sta, .stx, .sty]

/-- The handlers that step a byte of memory. -/
def memorySteps : List Mnemonic := [.inc, .dec]

/-- The handlers that move their operand by one bit. -/
def shifts : List Mnemonic := [.asl, .lsr, .rol, .ror]

/-- The handlers without an operand that leave PC to the engine and go on. -/
def impliedOps : List Mnemonic :=
  [.tax, .tay, .txa, .tya, .tsx, .txs, .inx, .iny, .dex, .dey, .pha, .pla, .php, .plp]

/-- The branches. -/
def branches : List Mnemonic := [.bcc, .bcs, .beq, .bne, .bmi, .bpl, .bvc, .bvs]

/-- The handlers that leave the state to the engine, which sets PC and the run-state. -/
def controlFlow : List Mnemonic := .jmp :: .brk :: branches

theorem services_iff_readable {m : Mnemonic} (hm : m ∈ readers) {o : Operand} :
    services m o.mode = true ↔ ReadableForm o := by
  fin_cases hm <;> simp [services, ReadableForm]

theorem services_iff_memory {m : Mnemonic} (hm : m ∈ stores ++ memorySteps) {o : Operand} :
    services m o.mode = true ↔ MemoryForm o := by
  fin_cases hm <;> simp [services, MemoryForm]

theorem services_iff_shift {m : Mnemonic} (hm : m ∈ shifts) {o : Operand} :
    services m o.mode = true ↔ ShiftForm o := by
  fin_cases hm <;> simp [services, ShiftForm]

theorem services_iff_implied {m : Mnemonic} (hm : m ∈ .brk :: impliedOps) {o : Operand} :
    services m o.mode = true ↔ o = .implied := by
  have hclass : operandClass o.mode = .none ↔ o = .implied :=
    ⟨operand_of_class_none, by rintro rfl; rfl⟩
  fin_cases hm <;> simp [services, hclass]

theorem services_iff_relative {m : Mnemonic} (hm : m ∈ branches) {o : Operand} :
    services m o.mode = true ↔ ∃ d, o = .relative d := by
  have hclass : operandClass o.mode = .rel ↔ ∃ d, o = .relative d :=
    ⟨operand_of_class_rel, by rintro ⟨d, rfl⟩; rfl⟩
  fin_cases hm <;> simp [services, hclass]

theorem not_mem_controlFlow :
    ∀ m ∈ readers ++ stores ++ memorySteps ++ shifts ++ impliedOps, m ∉ controlFlow := by
  decide

/-! ### The state a handler leaves -/

/-- The handlers that put a value in A and set Z and N from it. -/
def accumulatorLoads : List Mnemonic := [.lda, .txa, .tya, .and, .ora, .eor]

/-- The handlers that put a value in X and set Z and N from it. -/
def indexXLoads : List Mnemonic := [.ldx, .tax, .tsx, .inx, .dex]

/-- The handlers that put a value in Y and set Z and N from it. -/
def indexYLoads : List Mnemonic := [.ldy, .tay, .iny, .dey]

/-- The states a mnemonic's handler can leave, from s and the resolved operand r, before the engine sets PC and the
run-state (spec/41_engine_step.md R123). -/
inductive Handled (s : State) (r : Resolved) : Mnemonic → State → Prop where
  | loadA {m : Mnemonic} (hm : m ∈ accumulatorLoads) (v : Byte) : Handled s r m ((s.setA v).setNZ v)
  | loadX {m : Mnemonic} (hm : m ∈ indexXLoads) (v : Byte) : Handled s r m ((s.setX v).setNZ v)
  | loadY {m : Mnemonic} (hm : m ∈ indexYLoads) (v : Byte) : Handled s r m ((s.setY v).setNZ v)
  | add {m : Mnemonic} (hm : m ∈ [.adc, .sbc]) (v : Byte) : Handled s r m (s.addWithCarry v)
  | store {m : Mnemonic} {ea : Word} (hm : m ∈ stores) (hr : r = .addr ea) (v : Byte) :
    Handled s r m (s.writeByte ea v)
  | modify {m : Mnemonic} {ea : Word} (hm : m ∈ memorySteps) (hr : r = .addr ea) (v : Byte) :
    Handled s r m ((s.writeByte ea v).setNZ v)
  | shiftMemory {m : Mnemonic} {ea : Word} (hm : m ∈ shifts) (hr : r = .addr ea) (v : ShiftResult) :
    Handled s r m ((s.writeByte ea v.result).setShiftFlags v)
  | shiftA {m : Mnemonic} (hm : m ∈ shifts) (hr : r = .acc) (v : ShiftResult) :
    Handled s r m ((s.setA v.result).setShiftFlags v)
  | transferSp : Handled s r .txs (s.setSp s.x)
  | push {m : Mnemonic} (hm : m ∈ [.pha, .php]) (v : Byte) : Handled s r m (s.push v)
  | pullA (v : Byte) : Handled s r .pla ((s.popState.setA v).setNZ v)
  | pullP (v : Byte) : Handled s r .plp (s.popState.setP (pulledStatus v))
  | control {m : Mnemonic} (hm : m ∈ controlFlow) : Handled s r m s

/-! ### The engine's completion -/

/-- PC after an instruction: where the handler redirects, its target, else the next instruction's address. -/
def nextPc (m : Mnemonic) (o : Operand) (s : State) : Word :=
  (redirectTarget m o s).getD (s.pc + BitVec.ofNat 16 o.length)

/-- The run-state after an instruction that completes. -/
def nextRun (m : Mnemonic) : RunState := if m = .brk then .halted else .fetching

/-- The state after an instruction whose handler left u. -/
def completed (m : Mnemonic) (o : Operand) (s u : State) : State := (u.setPc (nextPc m o s)).setRun (nextRun m)

section

variable (m : Mnemonic) (o : Operand) (s u : State)

@[simp] theorem completed_a : (completed m o s u).a = u.a := rfl
@[simp] theorem completed_x : (completed m o s u).x = u.x := rfl
@[simp] theorem completed_y : (completed m o s u).y = u.y := rfl
@[simp] theorem completed_sp : (completed m o s u).sp = u.sp := rfl
@[simp] theorem completed_pc : (completed m o s u).pc = nextPc m o s := rfl
@[simp] theorem completed_mem : (completed m o s u).mem = u.mem := rfl
@[simp] theorem completed_run : (completed m o s u).run = nextRun m := rfl
@[simp] theorem completed_fault : (completed m o s u).fault = u.fault := rfl
@[simp] theorem completed_flag (f : Flag) : (completed m o s u).flag f = u.flag f := rfl
@[simp] theorem completed_readByte (k : Word) : (completed m o s u).readByte k = u.readByte k := rfl

end

/-- The instruction of m and o completes: its handler leaves a state of Handled and the engine completes it. -/
def Completes (m : Mnemonic) (o : Operand) (s : State) : Prop :=
  ∃ u, Handled s (resolve o s) m u ∧ exec (instrOf m o) s = .next (completed m o s u)

/-- Only JMP and the branches redirect. -/
theorem redirectTarget_of_not_controlFlow {m : Mnemonic} (hm : m ∉ controlFlow) (o : Operand) (s : State) :
    redirectTarget m o s = none := by
  simp only [controlFlow, branches, List.mem_cons, not_or] at hm
  cases hr : resolve o s <;> simp [redirectTarget, hr, branchTaken, hm]

/-- A handler outside control flow leaves PC to the engine. -/
theorem completed_of_not_controlFlow {m : Mnemonic} (hm : m ∉ controlFlow) (o : Operand) (s u : State) :
    completed m o s u = (u.setPc (s.pc + BitVec.ofNat 16 o.length)).setRun .fetching := by
  have hbrk : m ≠ .brk := by rintro rfl; exact hm (by decide)
  rw [completed, nextPc, redirectTarget_of_not_controlFlow hm, nextRun, if_neg hbrk]
  rfl

/-! ### Every serviced instruction completes, family by family -/

section

variable {m : Mnemonic} {o : Operand} {s : State}

theorem completes_of_dispatchRead {f : Byte → State} (hs : services m o.mode = true)
    (hexec : exec (instrOf m o) s = dispatchRead m o s f) (hm : m ∈ readers)
    (hf : ∀ v, Handled s (resolve o s) m (f v)) : Completes m o s := by
  obtain ⟨v, hv⟩ := operandRead_of_class s (((services_iff_readable hm).1 hs).imp_right .inl)
  refine ⟨f v, hf v, ?_⟩
  rw [hexec, dispatchRead_serviced hs hv, completed_of_not_controlFlow (not_mem_controlFlow m (by simp [hm]))]

theorem completes_of_dispatchWrite {v : Byte} (hs : services m o.mode = true)
    (hexec : exec (instrOf m o) s = dispatchWrite m o s v) (hm : m ∈ stores) : Completes m o s := by
  obtain ⟨ea, hr⟩ := resolve_of_class_mem ((services_iff_memory (by simp [hm])).1 hs) s
  refine ⟨s.writeByte ea v, .store hm hr v, ?_⟩
  rw [hexec, dispatchWrite_serviced hs (by rw [hr]; rfl),
    completed_of_not_controlFlow (not_mem_controlFlow m (by simp [hm]))]

theorem completes_of_dispatchModify {f : Byte → Byte} (hs : services m o.mode = true)
    (hexec : exec (instrOf m o) s = dispatchModify m o s f (fun v t => t.setNZ (f v))) (hm : m ∈ memorySteps) :
    Completes m o s := by
  obtain ⟨ea, hr⟩ := resolve_of_class_mem ((services_iff_memory (by simp [hm])).1 hs) s
  refine ⟨_, .modify hm hr (f (s.readByte ea)), ?_⟩
  rw [hexec, dispatchModify_serviced hs (by rw [hr]; rfl) (by rw [hr]; rfl),
    completed_of_not_controlFlow (not_mem_controlFlow m (by simp [hm]))]

theorem completes_of_shiftOperand {f : Byte → Bool → ShiftResult} (hs : services m o.mode = true)
    (hexec : exec (instrOf m o) s = shiftOperand m o s f) (hm : m ∈ shifts) : Completes m o s := by
  have hrun : ∀ {v t}, operandRead (resolve o s) s = some v →
      operandWrite (resolve o s) (f v (s.flag .c)).result s = some t →
      exec (instrOf m o) s = .next (completed m o s (t.setShiftFlags (f v (s.flag .c)))) := fun hv ht => by
    rw [hexec, shiftOperand, dispatchModify_serviced hs hv ht,
      completed_of_not_controlFlow (not_mem_controlFlow m (by simp [hm]))]
  rcases (services_iff_shift hm).1 hs with hacc | hmem
  · have hr : resolve o s = .acc := by rw [operand_of_class_acc hacc]; rfl
    exact ⟨_, .shiftA hm hr _, hrun (by rw [hr]; rfl) (by rw [hr]; rfl)⟩
  · obtain ⟨ea, hr⟩ := resolve_of_class_mem hmem s
    exact ⟨_, .shiftMemory hm hr _, hrun (by rw [hr]; rfl) (by rw [hr]; rfl)⟩

theorem completes_of_dispatchImplied {u : State} (hs : services m o.mode = true)
    (hexec : exec (instrOf m o) s = dispatchImplied m o s (.proceed u)) (hm : m ∈ impliedOps)
    (hu : Handled s (resolve o s) m u) : Completes m o s := by
  obtain rfl := (services_iff_implied (by simp [hm])).1 hs
  refine ⟨u, hu, ?_⟩
  rw [hexec, dispatchImplied_serviced _ hs, completed_of_not_controlFlow (not_mem_controlFlow m (by simp [hm]))]
  rfl

theorem completes_of_branch {cond : Bool} (hs : services m o.mode = true)
    (hexec : exec (instrOf m o) s = branch m o s cond) (hm : m ∈ branches) (hcond : branchTaken m s = cond) :
    Completes m o s := by
  have hbrk : m ≠ .brk := by rintro rfl; exact absurd hm (by decide)
  obtain ⟨d, rfl⟩ := (services_iff_relative hm).1 hs
  refine ⟨s, .control (by simp [controlFlow, hm]), ?_⟩
  rw [hexec, branch, dispatch_serviced hs rfl, completed, nextPc, redirectTarget, nextRun, if_neg hbrk, resolve, hcond]
  cases cond <;> rfl

theorem completes_jmp (hs : services .jmp o.mode = true) : Completes .jmp o s := by
  obtain ⟨ea, hr⟩ : ∃ ea, resolve o s = .addr ea := by
    rcases (by simpa [services] using hs : o.mode = .absolute ∨ operandClass o.mode = .ptr) with habs | hptr
    · exact resolve_of_class_mem (by rw [habs]; rfl) s
    · obtain ⟨w, rfl⟩ := operand_of_class_ptr hptr
      exact ⟨_, rfl⟩
  have hexec : execJmp o s = .next ((Effect.redirect s ea).complete s.pc o.length) :=
    dispatch_serviced hs (by rw [hr])
  exact ⟨s, .control (by decide), by rw [completed, nextPc, redirectTarget, hr]; exact hexec⟩

theorem completes_brk (hs : services .brk o.mode = true) : Completes .brk o s := by
  obtain rfl := (services_iff_implied (by decide)).1 hs
  exact ⟨s, .control (by decide), rfl⟩

end

/-- An instruction in a mode its mnemonic services completes, in one of the states Handled lists. -/
theorem completes_of_services {m : Mnemonic} {o : Operand} (s : State) (hs : services m o.mode = true) :
    Completes m o s := by
  cases m
  case lda | and | ora | eor => exact completes_of_dispatchRead hs rfl (by decide) fun v => .loadA (by decide) _
  case ldx => exact completes_of_dispatchRead hs rfl (by decide) fun v => .loadX (by decide) v
  case ldy => exact completes_of_dispatchRead hs rfl (by decide) fun v => .loadY (by decide) v
  case adc | sbc => exact completes_of_dispatchRead hs rfl (by decide) fun v => .add (by decide) _
  case sta | stx | sty => exact completes_of_dispatchWrite hs rfl (by decide)
  case inc | dec => exact completes_of_dispatchModify hs rfl (by decide)
  case asl | lsr | rol | ror => exact completes_of_shiftOperand hs rfl (by decide)
  case txa | tya => exact completes_of_dispatchImplied hs rfl (by decide) (.loadA (by decide) _)
  case tax | tsx | inx | dex => exact completes_of_dispatchImplied hs rfl (by decide) (.loadX (by decide) _)
  case tay | iny | dey => exact completes_of_dispatchImplied hs rfl (by decide) (.loadY (by decide) _)
  case txs => exact completes_of_dispatchImplied hs rfl (by decide) .transferSp
  case pha | php => exact completes_of_dispatchImplied hs rfl (by decide) (.push (by decide) _)
  case pla => exact completes_of_dispatchImplied hs rfl (by decide) (.pullA _)
  case plp => exact completes_of_dispatchImplied hs rfl (by decide) (.pullP _)
  case bcc | bcs | beq | bne | bmi | bpl | bvc | bvs =>
    exact completes_of_branch hs rfl (by decide) (by rw [Bool.eq_iff_iff]; simp [branchTaken])
  case jmp => exact completes_jmp hs
  case brk => exact completes_brk hs

/-- The same of an instruction. -/
theorem exec_serviced {i : Instr} (s : State) (hs : services i.mnemonic i.operand.mode = true) :
    ∃ u, Handled s (resolve i.operand s) i.mnemonic u ∧
      exec i s = .next (completed i.mnemonic i.operand s u) := by
  simpa [Completes] using completes_of_services s hs

/-- Everything an instruction can do: complete what its handler leaves, or take the fault of its mode. -/
theorem exec_next {i : Instr} {s t : State} (h : exec i s = .next t) :
    (∃ u, Handled s (resolve i.operand s) i.mnemonic u ∧ t = completed i.mnemonic i.operand s u) ∨
    t = s.raise (invalidMode i.mnemonic i.operand s) := by
  cases hs : services i.mnemonic i.operand.mode with
  | true =>
    obtain ⟨u, hu, hexec⟩ := exec_serviced s hs
    exact .inl ⟨u, hu, Host.Outcome.next.inj (h.symm.trans hexec)⟩
  | false => exact .inr (Host.Outcome.next.inj (h.symm.trans (exec_unserviced s hs)))

end Sys2Proof.Machine
end

section
/-! PROOF. The rules of the whole machine that follow from what a handler can leave: flags, registers, memory, PC, the
run-state and the record (spec/10_state.md, spec/41_engine_step.md, spec/60_exceptions.md). -/

namespace Sys2Proof.Machine

open Sys2Proof.Claims

/-! ### The flags each update keeps -/

section

variable {f : Flag} (s : State)

theorem State.setNZ_flag_kept (hf : f ∉ [.n, .z]) (v : Byte) : (s.setNZ v).flag f = s.flag f := by
  revert hf
  cases f <;> simp [State.flag, getFlag_setNZ]

theorem State.addWithCarry_flag_kept (hf : f ∉ [.n, .v, .z, .c]) (v : Byte) :
    (s.addWithCarry v).flag f = s.flag f := by
  revert hf
  cases f <;> simp [State.addWithCarry_flag]

theorem State.setShiftFlags_flag_kept (hf : f ∉ [.n, .z, .c]) (v : ShiftResult) :
    (s.setShiftFlags v).flag f = s.flag f := by
  revert hf
  cases f <;> simp [State.setShiftFlags_flag]

end

/-! ### The rows of the flag table (spec/10_state.md R37) -/

theorem flagsWritten_loads :
    ∀ m ∈ accumulatorLoads ++ indexXLoads ++ indexYLoads ++ memorySteps, flagsWritten m = [.n, .z] := by decide

theorem flagsWritten_sums : ∀ m ∈ [Mnemonic.adc, .sbc], flagsWritten m = [.n, .v, .z, .c] := by decide

theorem flagsWritten_shifts : ∀ m ∈ shifts, flagsWritten m = [.n, .z, .c] := by decide

/-! ### The store address -/

/-- The stores, the memory steps and the shifts store at their effective address. -/
theorem storeAddress_of_addr {m : Mnemonic} {o : Operand} {s : State} {ea : Word}
    (hm : m ∈ stores ++ memorySteps ++ shifts) (hr : resolve o s = .addr ea) : storeAddress m o s = some ea :=
  (if_pos hm).trans (by rw [hr])

/-! ### What a handler keeps -/

namespace Handled

variable {s u : State} {r : Resolved} {m : Mnemonic}

/-- No handler writes a flag that R37 does not name for it. -/
theorem flag_kept (h : Handled s r m u) {f : Flag} (hf : f ∉ flagsWritten m) : u.flag f = s.flag f := by
  cases h with
  | loadA hm v => exact State.setNZ_flag_kept _ (flagsWritten_loads m (by simp [hm]) ▸ hf) v
  | loadX hm v => exact State.setNZ_flag_kept _ (flagsWritten_loads m (by simp [hm]) ▸ hf) v
  | loadY hm v => exact State.setNZ_flag_kept _ (flagsWritten_loads m (by simp [hm]) ▸ hf) v
  | modify hm _ v => exact State.setNZ_flag_kept _ (flagsWritten_loads m (by simp [hm]) ▸ hf) v
  | pullA v => exact State.setNZ_flag_kept _ hf v
  | add hm v => exact State.addWithCarry_flag_kept s (flagsWritten_sums m hm ▸ hf) v
  | shiftMemory hm _ v => exact State.setShiftFlags_flag_kept _ (flagsWritten_shifts m hm ▸ hf) v
  | shiftA hm _ v => exact State.setShiftFlags_flag_kept _ (flagsWritten_shifts m hm ▸ hf) v
  | pullP v => exact absurd (by cases f <;> decide) hf
  | store | transferSp | push | control => rfl

/-- A is written by the handlers R21 names, a shift of the accumulator among them. -/
theorem a_kept (h : Handled s r m u) (hm : m ∉ .pla :: .adc :: .sbc :: accumulatorLoads)
    (hshift : m ∈ shifts → r ≠ .acc) : u.a = s.a := by
  cases h with
  | loadA hload => exact absurd (by simp [hload]) hm
  | add hadd => exact absurd (by simp_all) hm
  | pullA => exact absurd (by simp) hm
  | shiftA hs hr => exact absurd hr (hshift hs)
  | loadX | loadY | store | modify | shiftMemory | transferSp | push | pullP | control => rfl

/-- X is written by the handlers that load it. -/
theorem x_kept (h : Handled s r m u) (hm : m ∉ indexXLoads) : u.x = s.x := by
  cases h with
  | loadX hload => exact absurd hload hm
  | loadA | loadY | add | store | modify | shiftMemory | shiftA | transferSp | push | pullA | pullP | control => rfl

/-- Y is written by the handlers that load it. -/
theorem y_kept (h : Handled s r m u) (hm : m ∉ indexYLoads) : u.y = s.y := by
  cases h with
  | loadY hload => exact absurd hload hm
  | loadA | loadX | add | store | modify | shiftMemory | shiftA | transferSp | push | pullA | pullP | control => rfl

/-- SP is written by the pushes, the pulls and TXS. -/
theorem sp_kept (h : Handled s r m u) (hm : m ∉ [.pha, .php, .pla, .plp, .txs]) : u.sp = s.sp := by
  cases h with
  | push hp => exact absurd (by simp_all) hm
  | transferSp | pullA | pullP => exact absurd (by simp) hm
  | loadA | loadX | loadY | add | store | modify | shiftMemory | shiftA | control => rfl

/-- The only byte a handler writes is the one its instruction stores to. -/
theorem readByte_kept {o : Operand} (h : Handled s (resolve o s) m u) {k : Word}
    (hk : storeAddress m o s ≠ some k) : u.readByte k = s.readByte k := by
  have haddr : ∀ {ea v}, m ∈ stores ++ memorySteps ++ shifts → resolve o s = .addr ea →
      (s.writeByte ea v).readByte k = s.readByte k := fun hm hr =>
    State.readByte_writeByte_other _ fun hea => hk (by rw [storeAddress_of_addr hm hr, hea])
  cases h with
  | store hm hr => exact haddr (by simp [hm]) hr
  | modify hm hr => exact haddr (by simp [hm]) hr
  | shiftMemory hm hr => exact haddr (by simp [hm]) hr
  | push hm v =>
    have hstack : storeAddress m o s = some (stackAddr s.sp) := by fin_cases hm <;> rfl
    exact (s.readByte_push v k).trans (if_neg fun hea => hk (by rw [hstack, hea]))
  | loadA | loadX | loadY | add | shiftA | transferSp | pullA | pullP | control => rfl

theorem fault_kept (h : Handled s r m u) : u.fault = s.fault := by
  cases h <;> rfl

/-- Every write of memory is the state's own, which keeps the canonical form. -/
theorem mem_wf (h : Handled s r m u) (hwf : Memory.wf s.mem) : Memory.wf u.mem := by
  cases h with
  | store _ _ v => exact State.writeByte_wf _ v hwf
  | modify _ _ v => exact State.writeByte_wf _ v hwf
  | shiftMemory _ _ v => exact State.writeByte_wf _ v.result hwf
  | push _ v => exact State.push_wf v hwf
  | loadA | loadX | loadY | add | shiftA | transferSp | pullA | pullP | control => exact hwf

/-- Break and Unused stay clear: PLP clears them, and nothing else writes them. -/
theorem breakUnusedClear (h : Handled s r m u) (hs : s.BreakUnusedClear) : u.BreakUnusedClear := by
  by_cases hm : m = .plp
  · subst hm
    cases h with
    | pullP v => exact ⟨getFlag_pulledStatus v .b, getFlag_pulledStatus v .u⟩
    | _ => contradiction
  · have hw : .b ∉ flagsWritten m ∧ .u ∉ flagsWritten m := by
      revert hm
      cases m <;> decide
    exact ⟨(h.flag_kept hw.1).trans hs.1, (h.flag_kept hw.2).trans hs.2⟩

end Handled

/-! ### The rules of one instruction -/

/-- Settles O47: a faulting instruction writes no flag, and a handler only those of its row. -/
theorem flagsWrittenByTheTable : Obligations.FlagsWrittenByTheTable := by
  unfold Obligations.FlagsWrittenByTheTable
  intro i s t hexec f hf
  rcases exec_next hexec with ⟨u, hu, rfl⟩ | rfl
  · exact hu.flag_kept hf
  · rfl

/-- The accumulator shape comes from Accumulator mode. -/
theorem resolve_eq_acc {o : Operand} {s : State} (h : resolve o s = .acc) : o = .accumulator := by
  cases o <;> simp_all [resolve]

/-- Settles O48: a faulting instruction writes no register, and each handler only those it is named for. -/
theorem registersWrittenByTheirInstructions : Obligations.RegistersWrittenByTheirInstructions := by
  unfold Obligations.RegistersWrittenByTheirInstructions
  intro i s t hexec
  rcases exec_next hexec with ⟨u, hu, rfl⟩ | rfl
  · refine ⟨fun ha => ?_, fun hx => ?_, fun hy => ?_, fun hsp => ?_⟩
    · by_contra hm
      rw [not_or] at hm
      refine ha (hu.a_kept ?_ fun hshift hr => hm.2 ⟨hshift, resolve_eq_acc hr⟩)
      simpa [accumulatorLoads, and_left_comm, and_assoc] using hm.1
    · by_contra hm
      exact hx (hu.x_kept hm)
    · by_contra hm
      exact hy (hu.y_kept hm)
    · by_contra hm
      exact hsp (hu.sp_kept hm)
  · simp

/-- Settles O49: a faulting instruction stores nothing, and each handler at its store address only. -/
theorem atMostOneByteStored : Obligations.AtMostOneByteStored := by
  unfold Obligations.AtMostOneByteStored
  intro i s t hexec k hk
  rcases exec_next hexec with ⟨u, hu, rfl⟩ | rfl
  · exact hu.readByte_kept hk
  · rfl

/-- Settles O37: the written-out list of modes is the handler's own check. -/
theorem unservicedModeFaults : Obligations.UnservicedModeFaults := by
  unfold Obligations.UnservicedModeFaults
  intro i s hmode
  rw [← services_iff, Bool.not_eq_true] at hmode
  exact exec_unserviced s hmode

/-- Settles O38: the handler keeps the record and the engine sets the run-state. -/
theorem servicedModesComplete : Obligations.ServicedModesComplete := by
  unfold Obligations.ServicedModesComplete
  intro i s hmode
  obtain ⟨u, hu, hexec⟩ := exec_serviced s (services_iff.2 hmode)
  exact ⟨_, hexec, hu.fault_kept, rfl⟩

/-- Settles O43: the engine sets PC to the redirect target or, where there is none, past the instruction. -/
theorem pcIsRedirectedOrAdvanced : Obligations.PcIsRedirectedOrAdvanced := by
  unfold Obligations.PcIsRedirectedOrAdvanced
  intro i s hmode
  obtain ⟨u, -, hexec⟩ := exec_serviced s (services_iff.2 hmode)
  refine ⟨_, hexec, ?_⟩
  rw [completed_pc, nextPc]
  cases redirectTarget i.mnemonic i.operand s <;> rfl

end Sys2Proof.Machine
end

section
/-! PROOF. The step and Run by any opcode table: what they answer, what they keep, where they stop
(spec/41_engine_step.md R121 to R131, spec/60_exceptions.md). -/

namespace Sys2Proof.Machine

open Sys2Proof.Claims

/-! ### One step -/

theorem fetchBytes_eq (s : State) :
    fetchBytes s = s.readByte s.pc :: [s.readByte (s.pc + 1), s.readByte (s.pc + 2)] := rfl

/-- What the bytes at PC decode to stands in a row of the table for the byte at PC. -/
theorem row_of_decode_fetch {T : OpcodeTable} {s : State} {i : Instr} {rest : List Byte}
    (h : decodeWith T (fetchBytes s) = .ok (i, rest)) :
    ∃ d ∈ T.rows, d.opcodeByte = s.readByte s.pc ∧ d.mnemonic = i.mnemonic := by
  obtain ⟨d, hd, hbyte, hm, -⟩ := decodeWith_ok h
  exact ⟨d, hd, hbyte, hm⟩

theorem stepWith_decoded {T : OpcodeTable} {s : State} {i : Instr} {rest : List Byte} (hr : s.run = .fetching)
    (h : decodeWith T (fetchBytes s) = .ok (i, rest)) : stepWith T s = exec i s := by
  rw [stepWith_fetching T hr, fetchAndExec, h]

/-- Settles O36: in run-state Fetching a step is the fetch, and the fetch runs what it decodes. -/
theorem stepRunsDecodedInstruction : Obligations.StepRunsDecodedInstruction := by
  unfold Obligations.StepRunsDecodedInstruction
  exact ⟨fun T s i rest hr h => stepWith_decoded hr h, fun s i rest hr h => stepWith_decoded hr h⟩

/-- Settles O40: the absent bytes are those without a row of the default table. -/
theorem absentOpcodeFaultsUnchanged : Obligations.AbsentOpcodeFaultsUnchanged := by
  unfold Obligations.AbsentOpcodeFaultsUnchanged
  intro s hr habsent
  exact stepWith_absent hr ((lookupOpcode_none_iff_absent _).2 habsent)

/-- An instruction answers a running, a halted or a faulted state, and halts only as BRK. -/
theorem exec_run {i : Instr} {s t : State} (h : exec i s = .next t) :
    t.run = .fetching ∨ (t.run = .halted ∧ i.mnemonic = .brk) ∨ t.run = .faulted := by
  rcases exec_next h with ⟨u, -, rfl⟩ | rfl
  · by_cases hbrk : i.mnemonic = .brk
    · exact .inr (.inl ⟨if_pos hbrk, hbrk⟩)
    · exact .inl (if_neg hbrk)
  · exact .inr (.inr rfl)

theorem exec_isNext (i : Instr) (s : State) : ∃ t, exec i s = .next t := by
  rcases exec_cases i s with ⟨e, -, he⟩ | hf
  · exact ⟨_, he⟩
  · exact ⟨_, hf⟩

/-- Settles O42: bytes that decode run an instruction, which answers a next state; the rest fault. -/
theorem stepIsTotalWhileFetching : Obligations.StepIsTotalWhileFetching := by
  unfold Obligations.StepIsTotalWhileFetching
  intro T s hr
  cases hd : decodeWith T (fetchBytes s) with
  | error e => exact ⟨_, (stepWith_fetching T hr).trans (fetchAndExec_error hd), .inr (.inr rfl)⟩
  | ok p =>
    obtain ⟨t, ht⟩ := exec_isNext p.1 s
    exact ⟨t, (stepWith_decoded hr hd).trans ht, (exec_run ht).imp_right (.imp_left And.left)⟩

/-- Settles O39: what the default table decodes is well-formed, so its handler services it. -/
theorem defaultTableRaisesOneFault : Obligations.DefaultTableRaisesOneFault := by
  unfold Obligations.DefaultTableRaisesOneFault
  intro s t hr hfault hstep
  rcases stepWith_cases hstep with ⟨-, i, rest, hdec, hexec⟩ | ⟨-, _, -, rfl⟩ | ⟨-, rfl⟩
  · obtain ⟨u, hu, hnext⟩ := exec_serviced s (services_of_mode _ _ (wellFormed_of_decode hdec))
    obtain rfl := Host.Outcome.next.inj (hexec.symm.trans hnext)
    exact .inl (hu.fault_kept.trans hfault)
  · exact .inr rfl
  · exact .inl hfault

/-! ### Halting -/

/-- A step that halts ran a BRK of the table. -/
theorem stepWith_halted {T : OpcodeTable} {s t : State} (hr : s.run = .fetching) (hstep : stepWith T s = .next t)
    (hhalt : t.run = .halted) : ∃ d ∈ T.rows, d.opcodeByte = s.readByte s.pc ∧ d.mnemonic = .brk := by
  rcases stepWith_cases hstep with ⟨-, i, rest, hdec, hexec⟩ | ⟨-, _, -, rfl⟩ | ⟨hstop, -⟩
  · have hbrk : i.mnemonic = .brk := by
      rcases exec_run hexec with h | ⟨-, h⟩ | h
      · simp [hhalt] at h
      · exact h
      · simp [hhalt] at h
    rw [← hbrk]
    exact row_of_decode_fetch hdec
  · simp at hhalt
  · simp [hr] at hstop

theorem brk_row_of_defaultTable : ∀ d ∈ defaultTable.rows, d.mnemonic = .brk → d.opcodeByte = 0x00 := by
  decide +kernel

/-- Byte 0x00 is BRK by the default table: the step completes it. -/
theorem step_brk {s : State} (hr : s.run = .fetching) (hbyte : s.readByte s.pc = 0x00) :
    step s = .next ((s.setPc (s.pc + 1)).setRun .halted) := by
  have hdec : decode (fetchBytes s) = .ok (.brk .implied, [s.readByte (s.pc + 1), s.readByte (s.pc + 2)]) := by
    rw [fetchBytes_eq, hbyte]
    rfl
  exact stepWith_decoded hr hdec

/-- Settles O45: only BRK halts, and the default table's one row of BRK is that of byte 0x00. -/
theorem onlyBrkHalts : Obligations.OnlyBrkHalts := by
  unfold Obligations.OnlyBrkHalts
  refine ⟨fun s hr => ⟨?_, fun hbyte => ⟨_, step_brk hr hbyte, rfl⟩⟩, fun T s t => stepWith_halted⟩
  rintro ⟨t, hstep, hhalt⟩
  obtain ⟨d, hd, hbyte, hbrk⟩ := stepWith_halted hr hstep hhalt
  exact hbyte.symm.trans (brk_row_of_defaultTable d hd hbrk)

/-! ### Run -/

theorem stepWith_stopped (T : OpcodeTable) {s : State} (h : s.run = .halted ∨ s.run = .faulted) :
    stepWith T s = .next s := by
  rcases h with h | h <;> rw [stepWith, h]

/-- Where the machine is not running, Run is Step. -/
theorem runFor_not_fetching (T : OpcodeTable) (n : Nat) {s : State} (h : s.run ≠ .fetching) :
    runFor T n s = stepWith T s := by
  cases n <;> rw [runFor, if_neg h]

theorem runFor_stopped (T : OpcodeTable) (n : Nat) {s : State} (h : s.run = .halted ∨ s.run = .faulted) :
    runFor T n s = .next s := by
  rw [runFor_not_fetching T n (by rcases h with h | h <;> rw [h] <;> decide), stepWith_stopped T h]

/-- Settles O44: outside Fetching a run is a step. -/
theorem terminalStatesAbsorb : Obligations.TerminalStatesAbsorb := by
  unfold Obligations.TerminalStatesAbsorb
  intro T n s
  refine ⟨fun h => ⟨stepWith_stopped T h, runFor_stopped T n h⟩, fun h => ?_, rfl, rfl⟩
  have hstep : stepWith T s = .refused .stepBeforeReset := by rw [stepWith, h]
  exact ⟨hstep, by rw [runFor_not_fetching T n (by rw [h]; decide), hstep]⟩

/-- A run of more than 0 steps that is running takes one step and runs on. -/
theorem runFor_succ_next {T : OpcodeTable} {n : Nat} {s t : State} (hr : s.run = .fetching)
    (h : runFor T (n + 1) s = .next t) : ∃ u, stepWith T s = .next u ∧ runFor T n u = .next t := by
  rw [runFor, if_pos hr] at h
  split at h
  · exact ⟨_, ‹_›, h⟩
  · simp at h
  · simp at h

/-- A run that has ended is not moved by more steps. -/
theorem runFor_mono {T : OpcodeTable} {n k : Nat} {s t : State} (h : runFor T n s = .next t)
    (hend : t.CleanEnd ∨ t.BadEnd) (hk : n ≤ k) : runFor T k s = .next t := by
  by_cases hr : s.run = .fetching
  · induction n generalizing s k with
    | zero =>
      rw [runFor, if_pos hr] at h
      obtain rfl := Host.Outcome.next.inj h
      simp [State.CleanEnd, State.BadEnd, hr] at hend
    | succ n ih =>
      obtain ⟨k, rfl⟩ := Nat.exists_eq_add_of_le' (Nat.le_trans (Nat.succ_le_succ n.zero_le) hk)
      obtain ⟨u, hstep, hrun⟩ := runFor_succ_next hr h
      rw [runFor, if_pos hr, hstep]
      by_cases hu : u.run = .fetching
      · exact ih hrun (Nat.le_of_succ_le_succ hk) hu
      · exact (runFor_not_fetching T k hu).trans ((runFor_not_fetching T n hu).symm.trans hrun)
  · rw [runFor_not_fetching T k hr, ← runFor_not_fetching T n hr, h]

/-- Settles O46: of two runs that end, the longer answers the end state of the shorter. -/
theorem runReturnsOneState : Obligations.RunReturnsOneState := by
  unfold Obligations.RunReturnsOneState
  rintro T s t t' ⟨n, hn, hend⟩ ⟨n', hn', hend'⟩
  have ht := runFor_mono hn hend (Nat.le_max_left n n')
  have ht' := runFor_mono hn' hend' (Nat.le_max_right n n')
  exact ⟨Host.Outcome.next.inj (ht.symm.trans ht'), n, fun k hk => runFor_mono hn hend hk⟩

/-- What every step keeps, a run of any number of steps keeps. -/
theorem runFor_keeps {T : OpcodeTable} {P : State → Prop} (hstep : ∀ {s t}, P s → stepWith T s = .next t → P t)
    {n : Nat} {s t : State} (hs : P s) (h : runFor T n s = .next t) : P t := by
  by_cases hr : s.run = .fetching
  case neg => exact hstep hs ((runFor_not_fetching T n hr).symm.trans h)
  induction n generalizing s with
  | zero =>
    rw [runFor, if_pos hr] at h
    exact Host.Outcome.next.inj h ▸ hs
  | succ n ih =>
    obtain ⟨u, hsu, hut⟩ := runFor_succ_next hr h
    have hu := hstep hs hsu
    by_cases hrun : u.run = .fetching
    · exact ih hu hut hrun
    · exact hstep hu ((runFor_not_fetching T n hrun).symm.trans hut)

/-! ### What every step keeps -/

/-- The memory is canonical and the run-state agrees with the record. -/
def State.Consistent (s : State) : Prop := s.MemoryCanonical ∧ s.RunStateConsistent

theorem State.Consistent.raise {s : State} (h : s.Consistent) (f : Fault) : (s.raise f).Consistent :=
  ⟨h.1, by simp [State.RunStateConsistent]⟩

/-- A machine that is running has an empty record. -/
theorem State.Consistent.fault_eq_none {s : State} (h : s.Consistent) (hr : s.run = .fetching) : s.fault = none := by
  simpa [hr] using h.2.2

theorem exec_keeps_consistent {i : Instr} {s t : State} (hs : s.Consistent) (hr : s.run = .fetching)
    (h : exec i s = .next t) : t.Consistent := by
  rcases exec_next h with ⟨u, hu, rfl⟩ | rfl
  · refine ⟨hu.mem_wf hs.1, ?_⟩
    rw [State.RunStateConsistent, completed_run, completed_fault, hu.fault_kept, hs.fault_eq_none hr, nextRun]
    split <;> decide
  · exact hs.raise _

theorem stepWith_keeps_consistent {T : OpcodeTable} {s t : State} (hs : s.Consistent)
    (h : stepWith T s = .next t) : t.Consistent := by
  rcases stepWith_cases h with ⟨hr, i, rest, -, hexec⟩ | ⟨-, e, -, rfl⟩ | ⟨-, rfl⟩
  · exact exec_keeps_consistent hs hr hexec
  · exact hs.raise _
  · exact hs

theorem stepWith_keeps_breakUnusedClear {T : OpcodeTable} {s t : State} (hs : s.BreakUnusedClear)
    (h : stepWith T s = .next t) : t.BreakUnusedClear := by
  rcases stepWith_cases h with ⟨-, i, rest, -, hexec⟩ | ⟨-, e, -, rfl⟩ | ⟨-, rfl⟩
  · rcases exec_next hexec with ⟨u, hu, rfl⟩ | rfl
    · exact hu.breakUnusedClear hs
    · exact hs
  · exact hs
  · exact hs

/-- Settles O52: each part of the invariant is kept by every handler, by a fault entry and by a stopped machine. -/
theorem stepKeepsInvariant : Obligations.StepKeepsInvariant := by
  unfold Obligations.StepKeepsInvariant
  rintro s t ⟨hmem, hrun, hclear⟩ hstep
  obtain ⟨hmem', hrun'⟩ := stepWith_keeps_consistent ⟨hmem, hrun⟩ hstep
  exact ⟨hmem', hrun', stepWith_keeps_breakUnusedClear hclear hstep⟩

/-- Settles O53: memory is the empty list, the machine is running, P is 0x00. -/
theorem resetMeetsInvariant : Obligations.ResetMeetsInvariant := by
  unfold Obligations.ResetMeetsInvariant
  exact ⟨Memory.wf_nil, by decide, by decide⟩

end Sys2Proof.Machine
end

section
/-! PROOF. Reset() and the calls of the host (spec/70_reset_and_hazards.md R260 to R269). -/

namespace Sys2Proof.Machine

open Sys2Proof.Claims

/-! ### Legal and illegal tables -/

theorem tableOfRows_of_legal {rows : List Descriptor} (h : legalRows rows) : tableOfRows rows = some ⟨rows, h⟩ :=
  dif_pos h

theorem tableOfRows_of_illegal {rows : List Descriptor} (h : ¬legalRows rows) : tableOfRows rows = none :=
  dif_neg h

section

variable (cfg : Config) (s : State)

theorem hostCall_load {bytes : List Byte} (h : bytes.length ≤ 65536) :
    hostCall cfg (.load bytes) s = .next (s.load cfg.loadAddr bytes) := if_pos h

theorem hostCall_load_too_long {bytes : List Byte} (h : 65536 < bytes.length) :
    hostCall cfg (.load bytes) s = .refused .imageTooLong := if_neg (Nat.not_le.2 h)

variable {cfg}

theorem hostCall_of_legal (h : legalRows cfg.opcodeRows) :
    hostCall cfg .step s = stepWith ⟨cfg.opcodeRows, h⟩ s ∧
    ∀ n, hostCall cfg (.run n) s = runFor ⟨cfg.opcodeRows, h⟩ n s := by
  simp [hostCall, tableOfRows_of_legal h]

theorem hostCall_of_illegal (h : ¬legalRows cfg.opcodeRows) :
    hostCall cfg .step s = .refused .illegalOpcodeTable ∧
    ∀ n, hostCall cfg (.run n) s = .refused .illegalOpcodeTable := by
  simp [hostCall, tableOfRows_of_illegal h]

end

/-- Settles O58: the image's length and the rows' legality decide. -/
theorem illegalHostCallsAreRefused : Obligations.IllegalHostCallsAreRefused := by
  unfold Obligations.IllegalHostCallsAreRefused
  exact fun cfg s => ⟨fun _ => hostCall_load_too_long cfg s, hostCall_of_illegal s, hostCall_of_legal s⟩

/-! ### Reset() -/

/-- Settles O55: Reset() reads the vector from the memory it leaves, so a second one finds the same. -/
theorem resetSetsEveryRegister : Obligations.ResetSetsEveryRegister := by
  unfold Obligations.ResetSetsEveryRegister
  intro s
  exact ⟨State.readWord_toNat s resetVector, ⟨rfl, rfl, rfl, rfl⟩, rfl, rfl, rfl, rfl, rfl⟩

theorem State.constructed_doReset (a x y sp : Byte) (pc : Word) (p : Byte) :
    (State.constructed a x y sp pc p).doReset = State.reset := by
  have hvector : State.readWord (State.constructed a x y sp pc p) resetVector = 0x0000 :=
    BitVec.eq_of_toNat_eq (State.readWord_toNat _ _)
  rw [State.doReset, hvector]
  rfl

/-- Settles O56: the vector and the first byte of an empty memory are zero, and byte 0x00 is BRK. -/
theorem freshMachineResetsAndHalts : Obligations.FreshMachineResetsAndHalts := by
  unfold Obligations.FreshMachineResetsAndHalts
  intro a x y sp pc p
  exact ⟨rfl, State.constructed_doReset a x y sp pc p, rfl, _, step_brk rfl rfl, rfl, rfl⟩

/-! ### Load -/

/-- A run of byte writes keeps the bytes it wrote: within 65536 bytes no address comes twice. -/
theorem State.readByte_writeBytes (bs : List Byte) (s : State) (addr : Word) (hlen : bs.length ≤ 65536) (i : Nat)
    (hi : i < bs.length) : (s.writeBytes addr bs).readByte (addr + BitVec.ofNat 16 i) = bs[i] := by
  induction bs generalizing s addr i with
  | nil => simp at hi
  | cons b bs ih =>
    rw [List.length_cons] at hlen
    cases i with
    | zero =>
      have hfresh : ∀ j < bs.length, addr + BitVec.ofNat 16 0 ≠ addr + 1 + BitVec.ofNat 16 j := by
        intro j hj
        bv_omega
      rw [State.writeBytes, State.readByte_writeBytes_other _ _ _ _ hfresh]
      simp
    | succ i =>
      have haddr : addr + BitVec.ofNat 16 (i + 1) = addr + 1 + BitVec.ofNat 16 i := by bv_omega
      rw [State.writeBytes, haddr, ih _ _ (by omega) i (by simpa using hi)]
      rfl

theorem State.writeBytes_eq (s : State) (addr : Word) (bs : List Byte) :
    s.writeBytes addr bs = { s with mem := (s.writeBytes addr bs).mem } := by
  obtain ⟨ha, hx, hy, hsp, hpc, hp, hr, hf⟩ := State.writeBytes_fields bs s addr
  exact State.ext_fields ha hx hy hsp hpc hp rfl hr hf

/-- Settles O57: the image is written from the load address on, and the vector after it, so the vector wins. -/
theorem loadPlacesImageAndVector : Obligations.LoadPlacesImageAndVector := by
  unfold Obligations.LoadPlacesImageAndVector
  intro cfg bytes s hlen
  have hword : (s.load cfg.loadAddr bytes).readWord resetVector = cfg.loadAddr := State.readWord_writeWord _ _ _
  have hother : ∀ k, k ≠ 0xFFFC → k ≠ 0xFFFD →
      (s.load cfg.loadAddr bytes).readByte k = (s.writeBytes cfg.loadAddr bytes).readByte k :=
    fun k hlow hhigh => State.readByte_writeWord_other _ hlow hhigh
  refine ⟨_, hostCall_load cfg s hlen, fun i hi hlow hhigh => ?_, hword, hword, fun k hlow hhigh hk => ?_, ?_⟩
  · rw [hother _ hlow hhigh, State.readByte_writeBytes bytes s _ hlen i hi]
  · rw [hother _ hlow hhigh, State.readByte_writeBytes_other bytes s _ k hk]
  · exact ⟨_, by rw [State.load, State.writeWord_eq, State.writeBytes_eq]⟩

/-! ### Every call -/

/-- Settles O54: a load and the pokes of memory write by the state's own operations, a poke of a register touches
neither part, Reset() empties the record of a running machine, and Step and Run keep both. -/
theorem hostCallsKeepConsistency : Obligations.HostCallsKeepConsistency := by
  unfold Obligations.HostCallsKeepConsistency
  intro cfg call s t hmem hrun h
  cases call with
  | load bytes =>
    obtain ⟨-, -, -, -, -, -, hr, hf⟩ := State.writeBytes_fields bytes s cfg.loadAddr
    rw [hostCall] at h
    split at h
    · obtain rfl := Host.Outcome.next.inj h
      refine ⟨State.writeWord_wf _ _ (State.writeBytes_wf bytes _ hmem), ?_⟩
      rwa [State.RunStateConsistent, State.load, State.writeWord_run, State.writeWord_fault, hr, hf]
    · cases h
  | reset =>
    obtain rfl := Host.Outcome.next.inj h
    exact ⟨hmem, by simp [State.RunStateConsistent]⟩
  | step =>
    rw [hostCall] at h
    split at h
    · exact stepWith_keeps_consistent ⟨hmem, hrun⟩ h
    · cases h
  | run steps =>
    rw [hostCall] at h
    split at h
    · exact runFor_keeps stepWith_keeps_consistent ⟨hmem, hrun⟩ h
    · cases h
  | pokeByte addr v =>
    obtain rfl := Host.Outcome.next.inj h
    exact ⟨State.writeByte_wf addr v hmem, hrun⟩
  | pokeWord addr w =>
    obtain rfl := Host.Outcome.next.inj h
    exact ⟨State.writeWord_wf addr w hmem, hrun⟩
  | pokeA | pokeX | pokeY | pokeSp | pokePc | pokeP | setFlag | clearFlag =>
    obtain rfl := Host.Outcome.next.inj h
    exact ⟨hmem, hrun⟩

/-- Settles O59: the pokes are the state's own updates of one field. -/
theorem pokesTouchOnlyTheirTarget : Obligations.PokesTouchOnlyTheirTarget := by
  unfold Obligations.PokesTouchOnlyTheirTarget
  intro cfg s v w addr f
  refine ⟨rfl, rfl, rfl, rfl, rfl, rfl, ⟨_, rfl, ?_, fun g hg => ?_⟩, ⟨_, rfl, ?_, fun g hg => ?_⟩, ?_, ?_⟩
  · rw [getFlag_putFlag, if_pos rfl]
  · rw [getFlag_putFlag, if_neg hg, State.flag]
  · rw [getFlag_putFlag, if_pos rfl]
  · rw [getFlag_putFlag, if_neg hg, State.flag]
  · exact ⟨_, rfl, State.readByte_writeByte_same s addr v, fun k hk => State.readByte_writeByte_other v hk⟩
  · exact ⟨_, rfl, State.readWord_writeWord s addr w,
      fun k hlow hhigh => State.readByte_writeWord_other w hlow hhigh⟩

end Sys2Proof.Machine
end

section
/-! PROOF. The flags I, D, B and U influence nothing but PHP (spec/10_state.md R33 to R36): two runs of an instruction
side by side, from states that differ in P alone. -/

namespace Sys2Proof.Machine

open Sys2Proof.Claims

/-! ### Writes of flags, one after the other -/

/-- A status byte after flags are written, the first of the list first. -/
def putFlags (ws : List (Flag × Bool)) (p : Byte) : Byte := ws.foldl (fun p w => putFlag p w.1 w.2) p

/-- Flags outside the writes stay. -/
theorem getFlag_putFlags_other {ws : List (Flag × Bool)} {f : Flag} (hf : ∀ w ∈ ws, f ≠ w.1) (p : Byte) :
    getFlag (putFlags ws p) f = getFlag p f := by
  induction ws generalizing p with
  | nil => rfl
  | cons w ws ih =>
    rw [List.forall_mem_cons] at hf
    exact (ih hf.2 _).trans ((getFlag_putFlag p w.1 f w.2).trans (if_neg hf.1))

/-- The same writes keep two status bytes alike in a flag. -/
theorem getFlag_putFlags_congr {p q : Byte} {f : Flag} (h : getFlag q f = getFlag p f) (ws : List (Flag × Bool)) :
    getFlag (putFlags ws q) f = getFlag (putFlags ws p) f := by
  induction ws generalizing p q with
  | nil => exact h
  | cons w ws ih => exact ih (by rw [getFlag_putFlag, getFlag_putFlag, h])

/-! ### Two runs side by side -/

/-- The states u and u' reached from s and from s with q for P: they differ in P alone, and P came from the same writes
of active flags in both. -/
def SameWrites (s : State) (q : Byte) (u u' : State) : Prop :=
  ∃ ws : List (Flag × Bool), (∀ w ∈ ws, w.1 ∈ activeFlags) ∧ u.p = putFlags ws s.p ∧ u' = u.setP (putFlags ws q)

/-- Two outcomes whose next states are such a pair. -/
def SameOutcome (s : State) (q : Byte) (out out' : Host.Outcome State Fault Refusal) : Prop :=
  ∀ t, out = .next t → ∃ t', out' = .next t' ∧ SameWrites s q t t'

section

variable {s : State} {q : Byte}

theorem sameWrites_refl : SameWrites s q s (s.setP q) := ⟨[], by simp, rfl, rfl⟩

theorem sameWrites_setNZ {u : State} (hu : u.p = s.p) (v : Byte) :
    SameWrites s q (u.setNZ v) ((u.setP q).setNZ v) :=
  ⟨[(.z, v == 0x00), (.n, v.msb)], by simp [activeFlags], by rw [State.setNZ_p, hu]; rfl, rfl⟩

theorem sameWrites_setShiftFlags {u : State} (hu : u.p = s.p) (v : ShiftResult) :
    SameWrites s q (u.setShiftFlags v) ((u.setP q).setShiftFlags v) :=
  ⟨[(.c, v.carry), (.z, v.result == 0x00), (.n, v.result.msb)], by simp [activeFlags], by rw [← hu]; rfl, rfl⟩

theorem sameWrites_addWithCarry (hc : getFlag q .c = s.flag .c) (v : Byte) :
    SameWrites s q (s.addWithCarry v) ((s.setP q).addWithCarry v) := by
  have hc' : (s.setP q).flag .c = s.flag .c := hc
  refine ⟨[(.c, sumCarry s.a v (s.flag .c)), (.v, sumOverflow s.a v (s.flag .c)),
    (.z, sumResult s.a v (s.flag .c) == 0x00), (.n, (sumResult s.a v (s.flag .c)).msb)],
    by simp [activeFlags], rfl, ?_⟩
  rw [State.addWithCarry, hc']
  rfl

/-- Two effects that redirect and halt alike, on such a pair of states. -/
def SameEffect (s : State) (q : Byte) (e e' : Effect) : Prop :=
  e'.redirected = e.redirected ∧ e'.halt = e.halt ∧ SameWrites s q e.state e'.state

/-- The engine sets PC and the run-state, whatever P holds. -/
theorem SameEffect.complete {e e' : Effect} (h : SameEffect s q e e') (pc0 : Word) (n : Nat) :
    SameWrites s q (e.complete pc0 n) (e'.complete pc0 n) := by
  obtain ⟨hredirected, hhalt, ws, hws, hp, hstate⟩ := h
  rw [Effect.complete, Effect.complete, hredirected, hhalt, hstate]
  cases e.redirected <;> exact ⟨ws, hws, hp, rfl⟩

/-! ### The families of handlers -/

section

variable {m : Mnemonic} {o : Operand}

/-- No mode's address depends on P. -/
theorem resolve_setP (o : Operand) (s : State) (q : Byte) : resolve o (s.setP q) = resolve o s := by
  cases o <;> rfl

theorem operandRead_setP (r : Resolved) (s : State) (q : Byte) : operandRead r (s.setP q) = operandRead r s := by
  cases r <;> rfl

theorem operandWrite_setP (r : Resolved) (v : Byte) (s : State) (q : Byte) :
    operandWrite r v (s.setP q) = (operandWrite r v s).map (·.setP q) := by
  cases r <;> rfl

theorem operandWrite_p {r : Resolved} {v : Byte} {s u : State} (h : operandWrite r v s = some u) : u.p = s.p := by
  rcases operandWrite_some h with ⟨ea, -, rfl⟩ | ⟨-, rfl⟩ <;> rfl

/-- Handlers that give such pairs of effects, whatever the operand resolves to, give such a pair of outcomes. -/
theorem dispatch_sameOutcome {h h' : Resolved → Option Effect}
    (hh : ∀ r, Option.Rel (SameEffect s q) (h r) (h' r)) :
    SameOutcome s q (dispatch m o s h) (dispatch m o (s.setP q) h') := by
  have hraise : SameOutcome s q (.next (s.raise (invalidMode m o s)))
      (.next ((s.setP q).raise (invalidMode m o (s.setP q)))) := by
    rintro t ht
    obtain rfl := Host.Outcome.next.inj ht
    exact ⟨_, rfl, [], by simp, rfl, rfl⟩
  cases hs : services m o.mode with
  | false =>
    rw [dispatch_unserviced _ hs, dispatch_unserviced _ hs]
    exact hraise
  | true =>
    have hrel := hh (resolve o s)
    simp only [dispatch, hs, resolve_setP, if_true]
    generalize h (resolve o s) = e, h' (resolve o s) = e' at hrel
    cases hrel with
    | none => exact hraise
    | some he =>
      rintro t ht
      obtain rfl := Host.Outcome.next.inj ht
      exact ⟨_, rfl, he.complete _ _⟩

theorem dispatchRead_sameOutcome {f f' : Byte → State} (hf : ∀ v, SameWrites s q (f v) (f' v)) :
    SameOutcome s q (dispatchRead m o s f) (dispatchRead m o (s.setP q) f') := by
  refine dispatch_sameOutcome fun r => ?_
  rw [operandRead_setP]
  cases operandRead r s with
  | none => exact .none
  | some v => exact .some ⟨rfl, rfl, hf v⟩

theorem dispatchWrite_sameOutcome {v : Byte} :
    SameOutcome s q (dispatchWrite m o s v) (dispatchWrite m o (s.setP q) v) := by
  refine dispatch_sameOutcome fun r => ?_
  rw [operandWrite_setP]
  cases hu : operandWrite r v s with
  | none => exact .none
  | some u => exact .some ⟨rfl, rfl, [], by simp, operandWrite_p hu, rfl⟩

theorem dispatchModify_sameOutcome {f : Byte → Byte} {g : Byte → State → State}
    (hg : ∀ v u, u.p = s.p → SameWrites s q (g v u) (g v (u.setP q))) :
    SameOutcome s q (dispatchModify m o s f g) (dispatchModify m o (s.setP q) f g) := by
  refine dispatch_sameOutcome fun r => ?_
  rw [operandRead_setP]
  cases operandRead r s with
  | none => exact .none
  | some v =>
    rw [Option.bind_some, Option.bind_some, operandWrite_setP]
    cases hu : operandWrite r (f v) s with
    | none => exact .none
    | some u => exact .some ⟨rfl, rfl, hg v u (operandWrite_p hu)⟩

theorem shiftOperand_sameOutcome (hc : getFlag q .c = s.flag .c) {f : Byte → Bool → ShiftResult} :
    SameOutcome s q (shiftOperand m o s f) (shiftOperand m o (s.setP q) f) := by
  have hc' : (s.setP q).flag .c = s.flag .c := hc
  rw [shiftOperand, shiftOperand, hc']
  exact dispatchModify_sameOutcome fun v u hu => sameWrites_setShiftFlags hu _

theorem dispatchImplied_sameOutcome {e e' : Effect} (he : SameEffect s q e e') :
    SameOutcome s q (dispatchImplied m o s e) (dispatchImplied m o (s.setP q) e') := by
  refine dispatch_sameOutcome fun r => ?_
  by_cases hr : r = .noOperand
  · rw [if_pos hr, if_pos hr]
    exact .some he
  · rw [if_neg hr, if_neg hr]
    exact .none

theorem branch_sameOutcome {cond cond' : Bool} (hcond : cond' = cond) :
    SameOutcome s q (branch m o s cond) (branch m o (s.setP q) cond') := by
  subst hcond
  refine dispatch_sameOutcome fun r => ?_
  cases r with
  | target t => cases cond' <;> exact .some ⟨rfl, rfl, [], by simp, rfl, rfl⟩
  | noOperand | acc | imm | addr => exact .none

theorem execJmp_sameOutcome : SameOutcome s q (execJmp o s) (execJmp o (s.setP q)) := by
  refine dispatch_sameOutcome fun r => ?_
  cases r with
  | addr ea => exact .some ⟨rfl, rfl, [], by simp, rfl, rfl⟩
  | noOperand | acc | imm | target => exact .none

end

/-- Every instruction but PHP and PLP runs alike from two states that agree in C, Z, V and N. -/
theorem exec_sameOutcome (i : Instr) (hphp : i.mnemonic ≠ .php) (hplp : i.mnemonic ≠ .plp)
    (hq : ∀ f ∈ activeFlags, getFlag q f = s.flag f) : SameOutcome s q (exec i s) (exec i (s.setP q)) := by
  have hc := hq .c (by decide)
  have hz := hq .z (by decide)
  have hv := hq .v (by decide)
  have hn := hq .n (by decide)
  cases i
  case lda | ldx | ldy | and | ora | eor => exact dispatchRead_sameOutcome fun v => sameWrites_setNZ rfl _
  case adc | sbc => exact dispatchRead_sameOutcome fun v => sameWrites_addWithCarry hc _
  case sta | stx | sty => exact dispatchWrite_sameOutcome
  case inc | dec => exact dispatchModify_sameOutcome fun v u hu => sameWrites_setNZ hu _
  case asl | lsr | rol | ror => exact shiftOperand_sameOutcome hc
  case tax | tay | txa | tya | tsx | inx | iny | dex | dey | pla =>
    exact dispatchImplied_sameOutcome ⟨rfl, rfl, sameWrites_setNZ rfl _⟩
  case txs | pha | brk => exact dispatchImplied_sameOutcome ⟨rfl, rfl, [], by simp, rfl, rfl⟩
  case bcc => exact branch_sameOutcome (congrArg _ hc)
  case bcs => exact branch_sameOutcome hc
  case beq => exact branch_sameOutcome hz
  case bne => exact branch_sameOutcome (congrArg _ hz)
  case bmi => exact branch_sameOutcome hn
  case bpl => exact branch_sameOutcome (congrArg _ hn)
  case bvc => exact branch_sameOutcome (congrArg _ hv)
  case bvs => exact branch_sameOutcome hv
  case jmp => exact execJmp_sameOutcome
  case php => exact absurd rfl hphp
  case plp => exact absurd rfl hplp

end

/-- Settles O51: both runs write the same active flags, so the active flags stay alike and the inert ones as they
were. -/
theorem inertFlagsDoNotInterfere : Obligations.InertFlagsDoNotInterfere := by
  unfold Obligations.InertFlagsDoNotInterfere
  intro i s t q hphp hplp hq hexec
  obtain ⟨_, hexec', ws, hws, hp, rfl⟩ := exec_sameOutcome i hphp hplp hq t hexec
  refine ⟨putFlags ws q, hexec', fun f hf => ?_, fun f hf => ?_⟩
  · rw [State.flag, hp]
    exact getFlag_putFlags_congr (hq f hf) ws
  · have hkept : ∀ w ∈ ws, f ≠ w.1 := fun w hw hfw => hf (hfw ▸ hws w hw)
    rw [State.flag, hp]
    exact ⟨getFlag_putFlags_other hkept q, getFlag_putFlags_other hkept s.p⟩

end Sys2Proof.Machine
end

section
/-! PROOF. The full effect and frame of each family of instructions that does not compute on A: load and store,
transfers, increment and decrement, the stack, control flow (spec/42_load_store.md to 44_inc_dec.md,
spec/48_stack.md, spec/49_control_flow_halt.md). -/

namespace Sys2Proof.Machine

open Sys2Proof.Claims

/-! ### Flags as comparisons -/

theorem beq_zero_eq_decide (v : Byte) : (v == 0x00) = decide (v.toNat = 0) := by
  rw [Bool.eq_iff_iff, beq_iff_eq, decide_eq_true_iff, ← BitVec.toNat_inj]
  rfl

theorem msb_eq_decide_le (v : Byte) : v.msb = decide (128 ≤ v.toNat) := BitVec.msb_eq_decide v

/-- P after SetNZ shows the flags SetNZ writes. -/
theorem flagsNZ_of_p {s t : State} {v : Byte} (h : t.p = setNZ s.p v) : FlagsNZ s t v := by
  simp only [FlagsNZ, State.flag, h, getFlag_setNZ, beq_zero_eq_decide, msb_eq_decide_le, true_and]
  intro f hz hn
  cases f <;> trivial

/-- Settles O16: SetNZ writes Z and N from the value, which is not both zero and at least 128. -/
theorem setNZFollowsTheValue : Obligations.SetNZFollowsTheValue := by
  unfold Obligations.SetNZFollowsTheValue
  intro s v
  have hflags : FlagsNZ s (s.setNZ v) v := flagsNZ_of_p rfl
  refine ⟨hflags, ?_, _, rfl⟩
  rw [hflags.1, hflags.2.1, decide_eq_true_iff, decide_eq_true_iff]
  omega

/-! ### Outcomes -/

/-- A statement of a next state through a byte it names. -/
theorem nextState_exists_byte {i : Instr} {s : State} {P : Byte → Prop} {Q : Byte → State → Prop} (r : Byte)
    (hr : P r) (h : NextState i s (Q r)) : NextState i s (fun t => ∃ r, P r ∧ Q r t) := by
  obtain ⟨t, ht, hQ⟩ := h
  exact ⟨t, ht, r, hr, hQ⟩

/-- The engine's completion without a redirect. -/
theorem advanced_of_fault {s u : State} (hf : u.fault = s.fault) (n : Nat) :
    Advanced s ((u.setPc (s.pc + BitVec.ofNat 16 n)).setRun .fetching) n :=
  ⟨by simp, rfl, hf⟩

/-- A byte write stores one byte. -/
theorem State.writeByte_memoryStored (s : State) (ea : Word) (v : Byte) : MemoryStored s (s.writeByte ea v) ea v :=
  ⟨State.readByte_writeByte_same s ea v, fun _ hk => State.readByte_writeByte_other v hk⟩

/-- A state whose memory is that of the byte write stores one byte. -/
theorem memoryStored_of_mem {s t : State} {ea : Word} {v : Byte} (h : t.mem = (s.writeByte ea v).mem) :
    MemoryStored s t ea v := by
  obtain ⟨hsame, hother⟩ := s.writeByte_memoryStored ea v
  exact ⟨(State.readByte_of_mem_eq h ea).trans hsame,
    fun k hk => (State.readByte_of_mem_eq h k).trans (hother k hk)⟩

/-- A state with other 8-bit registers. -/
def State.withRegisters (s : State) (a x y sp : Byte) : State := { s with a := a, x := x, y := y, sp := sp }

section

variable {i : Instr} {m : Mnemonic} {o : Operand} {s : State} {a x y sp v : Byte}

/-- A handler that reads its operand, sets registers and then Z and N. -/
theorem nextState_readNZ {f : Byte → State} {w : Byte} (hexec : exec i s = dispatchRead m o s f)
    (hs : services m o.mode = true) (hw : operandRead (resolve o s) s = some w)
    (hf : f w = (s.withRegisters a x y sp).setNZ v) :
    NextState i s (fun t => Registers t a x y sp ∧ FlagsNZ s t v ∧ MemoryKept s t ∧ Advanced s t o.length) := by
  refine ⟨_, hexec.trans (dispatchRead_serviced hs hw), ?_⟩
  rw [hf]
  exact ⟨⟨rfl, rfl, rfl, rfl⟩, flagsNZ_of_p rfl, fun _ => rfl, advanced_of_fault rfl _⟩

/-- A handler without an operand that sets registers and then Z and N. -/
theorem nextState_impliedNZ
    (hexec : exec i s = dispatchImplied m .implied s (.proceed ((s.withRegisters a x y sp).setNZ v)))
    (hs : services m .implied = true) :
    NextState i s (fun t => Registers t a x y sp ∧ FlagsNZ s t v ∧ MemoryKept s t ∧ Advanced s t 1) :=
  ⟨_, hexec.trans (dispatchImplied_serviced _ hs), ⟨rfl, rfl, rfl, rfl⟩, flagsNZ_of_p rfl, fun _ => rfl,
    advanced_of_fault rfl 1⟩

/-- A handler that stores a byte at its effective address. -/
theorem nextState_store {ea : Word} (hexec : exec i s = dispatchWrite m o s v) (hs : services m o.mode = true)
    (hr : resolve o s = .addr ea) :
    NextState i s (fun t =>
      Registers t s.a s.x s.y s.sp ∧ t.p = s.p ∧ MemoryStored s t ea v ∧ Advanced s t o.length) := by
  have hw : operandWrite (resolve o s) v s = some (s.writeByte ea v) := by rw [hr]; rfl
  exact ⟨_, hexec.trans (dispatchWrite_serviced hs hw), ⟨rfl, rfl, rfl, rfl⟩, rfl, memoryStored_of_mem rfl,
    advanced_of_fault rfl _⟩

/-- A handler that steps the byte at its effective address. -/
theorem nextState_modify {f : Byte → Byte} {ea : Word}
    (hexec : exec i s = dispatchModify m o s f (fun v t => t.setNZ (f v))) (hs : services m o.mode = true)
    (hr : resolve o s = .addr ea) :
    NextState i s (fun t =>
      Registers t s.a s.x s.y s.sp ∧ FlagsNZ s t (f (s.readByte ea)) ∧ MemoryStored s t ea (f (s.readByte ea)) ∧
      Advanced s t o.length) := by
  have hw : operandWrite (resolve o s) (f (s.readByte ea)) s = some (s.writeByte ea (f (s.readByte ea))) := by
    rw [hr]; rfl
  exact ⟨_, hexec.trans (dispatchModify_serviced hs (by rw [hr]; rfl) hw), by simp [Registers],
    flagsNZ_of_p (by simp), memoryStored_of_mem (by simp), advanced_of_fault (by simp) _⟩

end

/-! ### Load, store, transfer -/

/-- Settles O18: each of the three reads its operand into its register. -/
theorem loadsWriteTheirRegister : Obligations.LoadsWriteTheirRegister := by
  unfold Obligations.LoadsWriteTheirRegister
  intro o s ho
  have hs : ∀ m ∈ readers, services m o.mode = true := fun m hm => (services_iff_readable hm).2 ho
  obtain ⟨v, hv⟩ := operandRead_of_class s (ho.imp_right .inl)
  exact ⟨v, hv, nextState_readNZ rfl (hs .lda (by decide)) hv rfl, nextState_readNZ rfl (hs .ldx (by decide)) hv rfl,
    nextState_readNZ rfl (hs .ldy (by decide)) hv rfl⟩

/-- Settles O19: each of the three writes its register at the effective address. -/
theorem storesWriteOneByte : Obligations.StoresWriteOneByte := by
  unfold Obligations.StoresWriteOneByte
  intro o s ho
  have hs : ∀ m ∈ stores ++ memorySteps, services m o.mode = true := fun m hm => (services_iff_memory hm).2 ho
  obtain ⟨ea, hr⟩ := resolve_of_class_mem ho s
  exact ⟨ea, hr, nextState_store rfl (hs .sta (by decide)) hr, nextState_store rfl (hs .stx (by decide)) hr,
    nextState_store rfl (hs .sty (by decide)) hr⟩

/-- Settles O20: five of the six set Z and N from the value moved, TXS leaves P. -/
theorem transfersCopyOneRegister : Obligations.TransfersCopyOneRegister := by
  unfold Obligations.TransfersCopyOneRegister
  intro s
  refine ⟨nextState_impliedNZ (m := .tax) rfl rfl, nextState_impliedNZ (m := .tay) rfl rfl,
    nextState_impliedNZ (m := .txa) rfl rfl, nextState_impliedNZ (m := .tya) rfl rfl,
    nextState_impliedNZ (m := .tsx) rfl rfl, ?_⟩
  exact ⟨((s.setSp s.x).setPc (s.pc + 1)).setRun .fetching, rfl, ⟨rfl, rfl, rfl, rfl⟩, rfl, fun _ => rfl,
    advanced_of_fault rfl 1⟩

/-! ### Increment and decrement -/

theorem add_one_toNat (v : Byte) : (v + 1).toNat = (v.toNat + 1) % 256 := BitVec.toNat_add v 1

theorem sub_one_toNat (v : Byte) : (v - 1).toNat = (v.toNat + 255) % 256 := by
  rw [BitVec.toNat_sub, Nat.add_comm]
  rfl

/-- Settles O21: both write back the byte they read, stepped by one. -/
theorem incDecStepOneByteOfMemory : Obligations.IncDecStepOneByteOfMemory := by
  unfold Obligations.IncDecStepOneByteOfMemory
  intro o s ho
  have hs : ∀ m ∈ stores ++ memorySteps, services m o.mode = true := fun m hm => (services_iff_memory hm).2 ho
  obtain ⟨ea, hr⟩ := resolve_of_class_mem ho s
  exact ⟨ea, hr,
    nextState_exists_byte _ (add_one_toNat _) (nextState_modify (f := (· + 1)) rfl (hs .inc (by decide)) hr),
    nextState_exists_byte _ (sub_one_toNat _) (nextState_modify (f := (· - 1)) rfl (hs .dec (by decide)) hr)⟩

/-- Settles O22: each of the four steps its own register. -/
theorem incDecStepOneRegister : Obligations.IncDecStepOneRegister := by
  unfold Obligations.IncDecStepOneRegister
  intro s
  exact ⟨nextState_exists_byte _ (add_one_toNat s.x) (nextState_impliedNZ (m := .inx) rfl rfl),
    nextState_exists_byte _ (add_one_toNat s.y) (nextState_impliedNZ (m := .iny) rfl rfl),
    nextState_exists_byte _ (sub_one_toNat s.x) (nextState_impliedNZ (m := .dex) rfl rfl),
    nextState_exists_byte _ (sub_one_toNat s.y) (nextState_impliedNZ (m := .dey) rfl rfl)⟩

/-! ### The stack -/

/-- A push instruction stores the byte at the cell SP names and takes SP down. -/
theorem nextState_push {i : Instr} {m : Mnemonic} {s : State} {v : Byte}
    (hexec : exec i s = dispatchImplied m .implied s (.proceed (s.push v))) (hs : services m .implied = true) :
    NextState i s (fun t => Registers t s.a s.x s.y (s.sp - 1) ∧ t.p = s.p ∧ MemoryStored s t (stackAddr s.sp) v ∧
      Advanced s t 1) :=
  ⟨_, hexec.trans (dispatchImplied_serviced _ hs), ⟨rfl, rfl, rfl, rfl⟩, rfl, s.push_memoryStored v,
    advanced_of_fault rfl 1⟩

/-- Settles O31: both are the stack engine's push, PHP of a copy of P with Break and Unused set. -/
theorem pushInstructionsStoreOneByte : Obligations.PushInstructionsStoreOneByte := by
  unfold Obligations.PushInstructionsStoreOneByte
  intro s addr haddr
  obtain rfl := eq_stackAddr haddr
  obtain ⟨t, hexec, ht⟩ := nextState_push (i := .php .implied) (m := .php) (s := s) rfl rfl
  refine ⟨nextState_push (m := .pha) rfl rfl, t, hexec, pushedStatus s.p, getFlag_pushedStatus s.p .b,
    getFlag_pushedStatus s.p .u, fun f hb hu => ?_, ht⟩
  rw [getFlag_pushedStatus]
  cases f <;> trivial

/-- Settles O32: both read the cell SP names once it has moved up, PLP with Break and Unused cleared. -/
theorem pullInstructionsReadOneByte : Obligations.PullInstructionsReadOneByte := by
  unfold Obligations.PullInstructionsReadOneByte
  intro s addr haddr
  obtain rfl := eq_stackAddr (haddr.trans (congrArg _ (add_one_toNat s.sp).symm))
  refine ⟨nextState_impliedNZ (m := .pla) rfl rfl,
    ((s.popState.setP (pulledStatus s.popValue)).setPc (s.pc + 1)).setRun .fetching, rfl, ⟨rfl, rfl, rfl, rfl⟩,
    getFlag_pulledStatus s.popValue .b, getFlag_pulledStatus s.popValue .u, fun f hb hu => ?_, fun _ => rfl,
    advanced_of_fault rfl 1⟩
  refine (getFlag_pulledStatus s.popValue f).trans ?_
  cases f <;> trivial

/-! ### Control flow and halt -/

/-- The address a displacement leads to, from the address after the 2-byte instruction, modulo 65536. -/
theorem relativeTarget_toNat (pc : Word) (d : Byte) :
    ((pc + 2 + sext16 d).toNat : Int) = (pc.toNat + 2 + d.toInt) % 65536 := by
  have hd : (sext16 d).toNat = (d.toInt % 65536).toNat := BitVec.toNat_ofInt d.toInt
  have h2 : (2 : Word).toNat = 2 := rfl
  rw [BitVec.toNat_add, BitVec.toNat_add, hd, h2]
  omega

/-- Settles O12: the target is counted from the next instruction, and the branches are the mnemonics with the mode. -/
theorem relativeTargetFromNextInstruction : Obligations.RelativeTargetFromNextInstruction := by
  unfold Obligations.RelativeTargetFromNextInstruction
  refine fun d s => ⟨⟨_, rfl, relativeTarget_toNat s.pc d⟩, rfl, fun m => ?_⟩
  cases m <;> decide

/-- The high byte of a pointer at w lies in the page of w. -/
theorem State.readPage_toNat (s : State) (w : Word) :
    (s.readPage w).toNat = 256 * byteAt s (w.toNat / 256 * 256 + (w.toNat + 1) % 256) + byteAt s w.toNat := by
  have haddr : (word (hi w) (lo w + 1)).toNat = w.toNat / 256 * 256 + (w.toNat + 1) % 256 := by
    rw [word_toNat, hi_toNat, add_one_toNat, lo_toNat]
    omega
  rw [State.readPage, word_toNat, State.readByte_toNat, State.readByte_toNat, haddr]

/-- Off the end of a page the next address lies in the same page. -/
theorem State.readPage_eq_readWord (s : State) {w : Word} (h : w.toNat % 256 ≠ 255) :
    s.readPage w = s.readWord w := by
  have haddr : word (hi w) (lo w + 1) = w + 1 := by
    apply BitVec.eq_of_toNat_eq
    have h1 : (w + 1).toNat = (w.toNat + 1) % 65536 := BitVec.toNat_add w 1
    have hw := w.isLt
    rw [word_toNat, hi_toNat, add_one_toNat, lo_toNat, h1]
    omega
  rw [State.readPage, haddr, State.readWord]

/-- Settles O11: the pointer's bytes are those of its own page. -/
theorem indirectStaysInPointerPage : Obligations.IndirectStaysInPointerPage := by
  unfold Obligations.IndirectStaysInPointerPage
  exact fun w s => ⟨_, rfl, s.readPage_toNat w, s.readPage_eq_readWord, rfl⟩

theorem word_toNat_emod (w : Word) : (w.toNat : Int) = (w.toNat : Int) % 65536 := by
  have := w.isLt
  omega

/-- Settles O33: in either form JMP sets PC to the address its operand resolves to. -/
theorem jmpSetsPc : Obligations.JmpSetsPc := by
  unfold Obligations.JmpSetsPc
  intro w s
  refine ⟨
    ⟨(s.setPc w).setRun .fetching, rfl, ⟨rfl, rfl, rfl, rfl⟩, rfl, fun _ => rfl, word_toNat_emod w, rfl, rfl⟩,
    (s.setPc (s.readPage w)).setRun .fetching, rfl, ⟨rfl, rfl, rfl, rfl⟩, rfl, fun _ => rfl, ?_, rfl, rfl⟩
  have h := word_toNat_emod (s.readPage w)
  rw [State.readPage_toNat, Nat.cast_add, Nat.cast_mul] at h
  exact (congrArg Nat.cast (s.readPage_toNat w)).trans h

/-- A branch goes to its target where the condition holds, else to the next instruction. -/
theorem nextState_branch {i : Instr} {m : Mnemonic} {d : Byte} {s : State} {taken : Bool}
    (hexec : exec i s = branch m (.relative d) s taken) (hs : services m .relative = true) :
    NextState i s (fun t =>
      Registers t s.a s.x s.y s.sp ∧ t.p = s.p ∧ MemoryKept s t ∧
      Redirected s t (if taken then s.pc.toNat + 2 + d.toInt else s.pc.toNat + 2)) := by
  refine ⟨_, hexec.trans (dispatch_serviced hs rfl), ?_⟩
  cases taken with
  | true => exact ⟨⟨rfl, rfl, rfl, rfl⟩, rfl, fun _ => rfl, relativeTarget_toNat s.pc d, rfl, rfl⟩
  | false =>
    refine ⟨⟨rfl, rfl, rfl, rfl⟩, rfl, fun _ => rfl, ?_, rfl, rfl⟩
    have h : (s.pc + BitVec.ofNat 16 2).toNat = (s.pc.toNat + 2) % 65536 := BitVec.toNat_add s.pc 2
    exact congrArg Nat.cast h

/-- Settles O34: each branch is the template on its own flag. -/
theorem branchesTestOneFlag : Obligations.BranchesTestOneFlag := by
  unfold Obligations.BranchesTestOneFlag
  intro d s
  exact ⟨nextState_branch (m := .bcc) rfl rfl, nextState_branch (m := .bcs) rfl rfl,
    nextState_branch (m := .beq) rfl rfl, nextState_branch (m := .bne) rfl rfl, nextState_branch (m := .bmi) rfl rfl,
    nextState_branch (m := .bpl) rfl rfl, nextState_branch (m := .bvc) rfl rfl, nextState_branch (m := .bvs) rfl rfl⟩

/-- Settles O35: BRK's effect is the state itself, halting. -/
theorem brkHaltsAndPushesNothing : Obligations.BrkHaltsAndPushesNothing := by
  unfold Obligations.BrkHaltsAndPushesNothing
  exact fun s => ⟨(s.setPc (s.pc + 1)).setRun .halted, rfl, ⟨rfl, rfl, rfl, rfl⟩, rfl, fun _ => rfl,
    BitVec.toNat_add s.pc 1, rfl, rfl⟩

/-! ### A store over the next opcode -/

/-- Settles O50: the byte stored is the one at the new PC. -/
theorem storeIsSeenByNextFetch : Obligations.StoreIsSeenByNextFetch := by
  unfold Obligations.StoreIsSeenByNextFetch
  intro s
  refine ⟨((s.writeByte (s.pc + 3) s.a).setPc (s.pc + 3)).setRun .fetching, rfl, rfl, ?_⟩
  exact congrArg some (State.readByte_writeByte_same s (s.pc + 3) s.a)

end Sys2Proof.Machine
end

section
/-! PROOF. Canonical memories are determined by their reads (spec/10_state.md R39). -/

namespace Sys2Proof.Machine

/-- Below its first cell a memory reads as 0x00. -/
theorem Memory.read_of_lt {m : Memory} {k : Nat} (h : ∀ c ∈ m, k < c.1) : Memory.read m k = 0x00 := by
  induction m with
  | nil => rfl
  | cons c m ih =>
    rw [List.forall_mem_cons] at h
    rw [Memory.read, if_neg h.1.ne', ih h.2]

theorem Memory.read_cons_self (a : Nat) (b : Byte) (m : Memory) : Memory.read ((a, b) :: m) a = b := if_pos rfl

/-- A canonical memory with a cell differs, at that cell's address, from one whose cells all lie above it. -/
theorem Memory.read_cons_ne_of_lt {a : Nat} {b : Byte} {m m' : Memory} (h : Memory.wf ((a, b) :: m))
    (hlt : ∀ c ∈ m', a < c.1) : Memory.read ((a, b) :: m) a ≠ Memory.read m' a := by
  rw [Memory.read_cons_self, Memory.read_of_lt hlt]
  exact (Memory.wf_cons.1 h).2.1.2

/-- A canonical memory has no cell below the first cell of another that reads alike. -/
theorem Memory.first_le {a a' : Nat} {b b' : Byte} {m m' : Memory} (h : Memory.wf ((a, b) :: m))
    (h' : Memory.wf ((a', b') :: m'))
    (hread : Memory.read ((a, b) :: m) a = Memory.read ((a', b') :: m') a) : a' ≤ a := by
  by_contra hlt
  rw [Nat.not_le] at hlt
  refine Memory.read_cons_ne_of_lt h (List.forall_mem_cons.2 ⟨hlt, fun d hd => ?_⟩) hread
  exact hlt.trans ((Memory.wf_cons.1 h').1 d hd)

/-- Settles O15, by induction on both lists: the first cells agree, and below the tails both read as 0x00. -/
theorem canonicalMemoriesAreDetermined : Obligations.CanonicalMemoriesAreDetermined := by
  unfold Obligations.CanonicalMemoriesAreDetermined
  intro m
  induction m with
  | nil =>
    rintro (_ | ⟨⟨a', b'⟩, m'⟩) - h' hread
    · rfl
    · exact absurd (hread a').symm (Memory.read_cons_ne_of_lt h' (by simp))
  | cons c m ih =>
    obtain ⟨a, b⟩ := c
    rintro (_ | ⟨⟨a', b'⟩, m'⟩) h h' hread
    · exact absurd (hread a) (Memory.read_cons_ne_of_lt h (by simp))
    · obtain rfl : a = a' := Nat.le_antisymm (Memory.first_le h' h (hread a').symm) (Memory.first_le h h' (hread a))
      obtain rfl : b = b' := by simpa only [Memory.read_cons_self] using hread a
      obtain ⟨hlt, -, hm⟩ := Memory.wf_cons.1 h
      obtain ⟨hlt', -, hm'⟩ := Memory.wf_cons.1 h'
      rw [ih m' hm hm' fun k => ?_]
      by_cases hk : a = k
      · subst hk
        rw [Memory.read_of_lt hlt, Memory.read_of_lt hlt']
      · simpa only [Memory.read, if_neg hk] using hread k

end Sys2Proof.Machine
end

section
/-! PROOF. Bytes pushed come back in reverse order (spec/48_stack.md R206). -/

namespace Sys2Proof.Machine

open Sys2Proof.Claims

theorem pushAll_concat (vs : List Byte) (v : Byte) (s : State) : pushAll (vs ++ [v]) s = (pushAll vs s).push v := by
  induction vs generalizing s with
  | nil => rfl
  | cons w vs ih => exact ih (s.push w)

/-- A pop gives back what the push before it stored. -/
theorem State.popValue_push (s : State) (v : Byte) : (s.push v).popValue = v := by
  rw [State.popValue, State.push_sp, sub_add_cancel, State.readByte_push, if_pos rfl]

/-- What n pops give depends on SP and on the n cells above it. -/
theorem popAll_congr (n : Nat) {s t : State} (hsp : t.sp = s.sp)
    (hread : ∀ i < n, t.readByte (stackAddr (s.sp + BitVec.ofNat 8 (i + 1))) =
      s.readByte (stackAddr (s.sp + BitVec.ofNat 8 (i + 1)))) :
    (popAll n t).1 = (popAll n s).1 ∧ (popAll n t).2.sp = (popAll n s).2.sp := by
  induction n generalizing s t with
  | zero => exact ⟨rfl, hsp⟩
  | succ n ih =>
    have hvalue : t.popValue = s.popValue := by
      rw [State.popValue, hsp]
      exact hread 0 n.succ_pos
    have hrest := ih (s := s.popState) (t := t.popState) (congrArg (· + 1) hsp) fun i hi => by
      have haddr : s.popState.sp + BitVec.ofNat 8 (i + 1) = s.sp + BitVec.ofNat 8 (i + 1 + 1) := by
        rw [State.popState_sp]
        bv_omega
      rw [haddr]
      exact hread (i + 1) (Nat.succ_lt_succ hi)
    exact ⟨by rw [popAll, popAll, hvalue, hrest.1], hrest.2⟩

/-- Settles O30, by induction from the last byte pushed: it is the first popped, and its cell is not one of the 255 that
the pops after it can read. -/
theorem stackRoundTrip : Obligations.StackRoundTrip := by
  unfold Obligations.StackRoundTrip
  intro vs s
  induction vs using List.reverseRecOn with
  | nil => exact fun _ => ⟨rfl, rfl⟩
  | append_singleton vs v ih =>
    intro hlen
    rw [List.length_append, List.length_singleton] at hlen ⊢
    obtain ⟨hbytes, hsp⟩ := ih (Nat.le_of_succ_le hlen)
    rw [pushAll_concat, List.reverse_concat, popAll, State.popValue_push]
    have hrest := popAll_congr vs.length (s := pushAll vs s) (t := ((pushAll vs s).push v).popState)
      (sub_add_cancel _ _) fun i hi => by
        rw [State.popState_readByte, State.readByte_push, if_neg fun haddr => ?_]
        have := stackAddr_inj haddr
        bv_omega
    exact ⟨by rw [hrest.1, hbytes], hrest.2.trans hsp⟩

end Sys2Proof.Machine
end

section
/-! PROOF. The operations on A: sums with carry, bitwise operations, and the moves by one bit in place
(spec/45_arithmetic.md, spec/46_logical.md, spec/47_shift_rotate.md). -/

namespace Sys2Proof.Machine

open Sys2Proof.Claims

/-! ### Sums and differences as exact integers -/

theorem sumResult_toNat (a m : Byte) (c : Bool) : (sumResult a m c).toNat = (a.toNat + m.toNat + c.toNat) % 256 :=
  BitVec.toNat_ofNat _ _

theorem sumCarry_eq (a m : Byte) (c : Bool) : sumCarry a m c = decide (255 < a.toNat + m.toNat + c.toNat) := by
  have ha := a.isLt
  have hm := m.isLt
  have hc := c.toNat_le
  rw [sumCarry, Nat.testBit_eq_decide_div_mod_eq, decide_eq_decide, sum9]
  omega

/-- A byte read as a signed number. -/
theorem byte_toInt (v : Byte) : v.toInt = if v.toNat < 128 then (v.toNat : Int) else v.toNat - 256 := by
  have hv := v.isLt
  rw [BitVec.toInt_eq_toNat_cond]
  split <;> split <;> omega

/-- The addends share a sign and the result's differs exactly where the signed sum is out of range. -/
theorem sumOverflow_eq (a m : Byte) (c : Bool) :
    sumOverflow a m c =
      decide (a.toInt + m.toInt + c.toNat < -128 ∨ 127 < a.toInt + m.toInt + c.toNat) := by
  have ha := a.isLt
  have hm := m.isLt
  have hc := c.toNat_le
  rw [Bool.eq_iff_iff]
  simp only [sumOverflow, msb_eq_decide_le, sumResult_toNat, byte_toInt, Bool.and_eq_true, beq_iff_eq, bne_iff_ne,
    ne_eq, decide_eq_decide, decide_eq_true_iff]
  split <;> split <;> omega

/-- SBC's addend, the complement of its operand. -/
theorem sbcAddend_toNat (m : Byte) : (sbcAddend m).toNat = 255 - m.toNat := by
  rw [sbcAddend, show (0xFF : Byte) = BitVec.allOnes 8 from rfl, BitVec.xor_allOnes, BitVec.toNat_not]

theorem sbcAddend_toInt (m : Byte) : (sbcAddend m).toInt = -1 - m.toInt := by
  have hm := m.isLt
  rw [byte_toInt, byte_toInt, sbcAddend_toNat]
  split <;> split <;> omega

/-- P after an addition shows its carry and overflow and the flags of its result. -/
theorem State.addWithCarry_flagsCVNZ {s t : State} {v : Byte} (h : t.p = (s.addWithCarry v).p) :
    FlagsCVNZ s t (sumCarry s.a v (s.flag .c)) (sumOverflow s.a v (s.flag .c)) (sumResult s.a v (s.flag .c)) := by
  have hflag : ∀ f, t.flag f = (s.addWithCarry v).flag f := fun f => congrArg (getFlag · f) h
  simp only [FlagsCVNZ, hflag, State.addWithCarry_flag, beq_zero_eq_decide, msb_eq_decide_le, true_and]
  intro f hc hv hz hn
  cases f <;> trivial

/-- A handler that reads its operand and adds v with carry. -/
theorem nextState_add {i : Instr} {m : Mnemonic} {o : Operand} {s : State} {f : Byte → State} {v w : Byte}
    (hexec : exec i s = dispatchRead m o s f) (hs : services m o.mode = true)
    (hw : operandRead (resolve o s) s = some w) (hf : f w = s.addWithCarry v) :
    NextState i s (fun t => Registers t (sumResult s.a v (s.flag .c)) s.x s.y s.sp ∧ MemoryKept s t ∧
      Advanced s t o.length ∧
      FlagsCVNZ s t (sumCarry s.a v (s.flag .c)) (sumOverflow s.a v (s.flag .c)) (sumResult s.a v (s.flag .c))) := by
  refine ⟨_, hexec.trans (dispatchRead_serviced hs hw), ?_⟩
  rw [hf]
  exact ⟨⟨rfl, rfl, rfl, rfl⟩, fun _ => rfl, advanced_of_fault rfl _, State.addWithCarry_flagsCVNZ rfl⟩

/-- Settles O23: ADC is the addition of its operand. -/
theorem adcAddsWithCarry : Obligations.AdcAddsWithCarry := by
  unfold Obligations.AdcAddsWithCarry
  intro o s ho
  obtain ⟨m, hm⟩ := operandRead_of_class s (ho.imp_right .inl)
  have h := nextState_add (i := .adc o) rfl ((services_iff_readable (by decide)).2 ho) hm rfl
  rw [sumCarry_eq, sumOverflow_eq] at h
  exact ⟨m, hm, nextState_exists_byte _ (sumResult_toNat s.a m _) h⟩

/-- Settles O24: SBC is the addition of the complement, which is the subtraction plus 256 or, signed, plus 0. -/
theorem sbcSubtractsWithBorrow : Obligations.SbcSubtractsWithBorrow := by
  unfold Obligations.SbcSubtractsWithBorrow
  intro o s ho
  obtain ⟨m, hm⟩ := operandRead_of_class s (ho.imp_right .inl)
  have hlt := m.isLt
  have h := nextState_add (i := .sbc o) rfl ((services_iff_readable (by decide)).2 ho) hm rfl
  have hcarry : (255 < s.a.toNat + (sbcAddend m).toNat + (s.flag .c).toNat) ↔
      0 ≤ (s.a.toNat : Int) - m.toNat - (1 - (s.flag .c).toNat) := by
    rw [sbcAddend_toNat]
    omega
  have hsigned : s.a.toInt + (sbcAddend m).toInt + (s.flag .c).toNat =
      s.a.toInt - m.toInt - (1 - (s.flag .c).toNat) := by
    rw [sbcAddend_toInt]
    omega
  rw [sumCarry_eq, sumOverflow_eq, decide_eq_decide.2 hcarry, hsigned] at h
  refine ⟨m, hm, nextState_exists_byte _ ?_ h⟩
  rw [sumResult_toNat, sbcAddend_toNat]
  omega

/-! ### Bitwise operations -/

/-- Settles O25: each puts its bitwise result in A. -/
theorem logicalOperationsOnAccumulator : Obligations.LogicalOperationsOnAccumulator := by
  unfold Obligations.LogicalOperationsOnAccumulator
  intro o s ho
  have hs : ∀ m ∈ readers, services m o.mode = true := fun m hm => (services_iff_readable hm).2 ho
  obtain ⟨v, hv⟩ := operandRead_of_class s (ho.imp_right .inl)
  exact ⟨v, hv,
    nextState_exists_byte _ (fun _ => BitVec.getLsbD_and) (nextState_readNZ rfl (hs .and (by decide)) hv rfl),
    nextState_exists_byte _ (fun _ => BitVec.getLsbD_or) (nextState_readNZ rfl (hs .ora (by decide)) hv rfl),
    nextState_exists_byte _ (fun _ => BitVec.getLsbD_xor) (nextState_readNZ rfl (hs .eor (by decide)) hv rfl)⟩

/-! ### Moves by one bit -/

theorem shiftLeft_one_toNat (v : Byte) : (v <<< 1).toNat = 2 * v.toNat % 256 := by
  rw [BitVec.toNat_shiftLeft, Nat.shiftLeft_eq, pow_one, Nat.mul_comm]

theorem shiftRight_one_toNat (v : Byte) : (v >>> 1).toNat = v.toNat / 2 := by
  rw [BitVec.toNat_ushiftRight, Nat.shiftRight_eq_div_pow, pow_one]

theorem getLsbD_seven (v : Byte) : v.getLsbD 7 = decide (128 ≤ v.toNat) := msb_eq_decide_le v

theorem getLsbD_zero (v : Byte) : v.getLsbD 0 = decide (v.toNat % 2 = 1) := Nat.testBit_zero v.toNat

/-- The old Carry enters the bit a left move leaves clear. -/
theorem shiftRol_result_toNat (v : Byte) (c : Bool) :
    (shiftRol v c).result.toNat = 2 * v.toNat % 256 + c.toNat := by
  have hbit : v <<< 1 &&& 0x01 = 0 := by
    apply BitVec.eq_of_getLsbD_eq
    intro i hi
    interval_cases i <;> simp
  cases c with
  | false => simpa [shiftRol] using shiftLeft_one_toNat v
  | true =>
    rw [shiftRol, if_pos rfl, ← BitVec.add_eq_or_of_and_eq_zero _ _ hbit, BitVec.toNat_add, shiftLeft_one_toNat,
      show (0x01 : Byte).toNat = 1 from rfl, Bool.toNat_true]
    omega

/-- The old Carry enters the bit a right move leaves clear. -/
theorem shiftRor_result_toNat (v : Byte) (c : Bool) :
    (shiftRor v c).result.toNat = v.toNat / 2 + 128 * c.toNat := by
  have hv := v.isLt
  have hbit : v >>> 1 &&& 0x80 = 0 := by
    apply BitVec.eq_of_getLsbD_eq
    intro i hi
    interval_cases i <;> simp
  cases c with
  | false => simpa [shiftRor] using shiftRight_one_toNat v
  | true =>
    rw [shiftRor, if_pos rfl, ← BitVec.add_eq_or_of_and_eq_zero _ _ hbit, BitVec.toNat_add, shiftRight_one_toNat,
      show (0x80 : Byte).toNat = 128 from rfl, Bool.toNat_true]
    omega

/-- P after a move shows its outgoing bit and the flags of its result. -/
theorem State.setShiftFlags_flagsCNZ {s t u : State} {r : ShiftResult} (hu : u.p = s.p)
    (h : t.p = (u.setShiftFlags r).p) : FlagsCNZ s t r.carry r.result := by
  have hflag : ∀ f, t.flag f = (u.setShiftFlags r).flag f := fun f => congrArg (getFlag · f) h
  have hkept : ∀ f, u.flag f = s.flag f := fun f => congrArg (getFlag · f) hu
  simp only [FlagsCNZ, hflag, State.setShiftFlags_flag, hkept, beq_zero_eq_decide, msb_eq_decide_le, true_and]
  intro f hc hz hn
  cases f <;> trivial

/-- A state with the registers and the memory a write of the operand leaves has the operand's place stored. -/
theorem operandStored_of_write {o : Operand} {s t u : State} {v : Byte}
    (hu : operandWrite (resolve o s) v s = some u) (ha : t.a = u.a) (hx : t.x = u.x) (hy : t.y = u.y)
    (hsp : t.sp = u.sp) (hmem : t.mem = u.mem) : OperandStored o s t v := by
  rcases operandWrite_some hu with ⟨ea, hr, rfl⟩ | ⟨hr, rfl⟩
  · refine ⟨hx, hy, hsp, ?_⟩
    rw [hr]
    exact ⟨ha, memoryStored_of_mem hmem⟩
  · refine ⟨hx, hy, hsp, ?_⟩
    rw [hr]
    exact ⟨ha, State.readByte_of_mem_eq hmem⟩

/-- A shift stores its result where its operand is, with C, Z and N from the move. -/
theorem nextState_shift {i : Instr} {m : Mnemonic} {o : Operand} {s : State} {v : Byte}
    {f : Byte → Bool → ShiftResult}
    (hexec : exec i s = shiftOperand m o s f) (hm : m ∈ shifts) (ho : ShiftForm o)
    (hv : operandRead (resolve o s) s = some v) :
    NextState i s (fun t => OperandStored o s t (f v (s.flag .c)).result ∧
      FlagsCNZ s t (f v (s.flag .c)).carry (f v (s.flag .c)).result ∧ Advanced s t o.length) := by
  obtain ⟨u, hu⟩ := operandWrite_of_class (f v (s.flag .c)).result s ho.symm
  have hfault : u.fault = s.fault := by
    rcases operandWrite_some hu with ⟨ea, -, rfl⟩ | ⟨-, rfl⟩ <;> rfl
  exact ⟨_, hexec.trans (dispatchModify_serviced ((services_iff_shift hm).2 ho) hv hu),
    operandStored_of_write hu rfl rfl rfl rfl rfl, State.setShiftFlags_flagsCNZ (operandWrite_p hu) rfl,
    advanced_of_fault hfault _⟩

/-- Settles O26: each of the four is the shift template on its own move. -/
theorem shiftsMoveOneBit : Obligations.ShiftsMoveOneBit := by
  unfold Obligations.ShiftsMoveOneBit
  intro o s ho
  obtain ⟨v, hv⟩ := operandRead_of_class s (ho.elim (.inr ∘ .inr) (.inr ∘ .inl))
  have hasl := nextState_shift (i := .asl o) rfl (by decide) ho hv
  have hlsr := nextState_shift (i := .lsr o) rfl (by decide) ho hv
  have hrol := nextState_shift (i := .rol o) rfl (by decide) ho hv
  have hror := nextState_shift (i := .ror o) rfl (by decide) ho hv
  refine ⟨v, hv,
    nextState_exists_byte _ (shiftLeft_one_toNat v) ?_, nextState_exists_byte _ (shiftRight_one_toNat v) ?_,
    nextState_exists_byte _ (shiftRol_result_toNat v _) ?_, nextState_exists_byte _ (shiftRor_result_toNat v _) ?_⟩
  · rwa [← getLsbD_seven]
  · rwa [← getLsbD_zero]
  · rwa [← getLsbD_seven]
  · rwa [← getLsbD_zero]

/-! ### The 9-bit rotation -/

/-- Bit k of the nine that the rotates turn: A, and Carry above it. -/
def ringBit (s : State) (k : Fin 9) : Bool := if k = 8 then s.flag .c else s.a.getLsbD k

/-- An instruction that answers a next state in which the ring is turned by d places. -/
def TurnsRing (i : Instr) (d : Fin 9) : Prop :=
  ∀ s, ∃ t, exec i s = .next t ∧ ∀ k, ringBit t (k + d) = ringBit s k

/-- A shift of the accumulator leaves its result in A and its outgoing bit in Carry. -/
theorem nextState_shiftA {i : Instr} {m : Mnemonic} {s : State} {f : Byte → Bool → ShiftResult}
    (hexec : exec i s = shiftOperand m .accumulator s f) (hm : m ∈ shifts) :
    NextState i s (fun t => t.a = (f s.a (s.flag .c)).result ∧ t.flag .c = (f s.a (s.flag .c)).carry) := by
  obtain ⟨t, ht, ⟨-, -, -, ha, -⟩, ⟨hc, -⟩, -⟩ := nextState_shift hexec hm (.inl rfl) rfl
  exact ⟨t, ht, ha, hc⟩

/-- ROL A turns the ring up by one place. -/
theorem rol_turnsRing : TurnsRing (.rol .accumulator) 1 := by
  intro s
  obtain ⟨t, ht, ha, hc⟩ := nextState_shiftA (i := .rol .accumulator) (m := .rol) (f := shiftRol) (s := s) rfl
    (by decide)
  refine ⟨t, ht, fun k => ?_⟩
  simp only [ringBit, ha, hc, shiftRol]
  cases s.flag .c <;> fin_cases k <;> simp

/-- ROR A turns it down by one place, which is up by eight. -/
theorem ror_turnsRing : TurnsRing (.ror .accumulator) 8 := by
  intro s
  obtain ⟨t, ht, ha, hc⟩ := nextState_shiftA (i := .ror .accumulator) (m := .ror) (f := shiftRor) (s := s) rfl
    (by decide)
  refine ⟨t, ht, fun k => ?_⟩
  simp only [ringBit, ha, hc, shiftRor]
  cases s.flag .c <;> fin_cases k <;> simp

/-- An instruction executed n times turns the ring n times over. -/
theorem execTimes_turnsRing {i : Instr} {d : Fin 9} (h : TurnsRing i d) (n : Nat) (s : State) :
    ∃ t, execTimes i n s = .next t ∧ ∀ k, ringBit t (k + n • d) = ringBit s k := by
  induction n generalizing s with
  | zero => exact ⟨s, rfl, fun k => by rw [zero_nsmul, add_zero]⟩
  | succ n ih =>
    obtain ⟨u, hu, hsu⟩ := h s
    obtain ⟨t, ht, hut⟩ := ih u
    refine ⟨t, by rw [execTimes, hu]; exact ht, fun k => ?_⟩
    rw [succ_nsmul', ← add_assoc, hut, hsu]

theorem nine_nsmul (d : Fin 9) : 9 • d = 0 := by decide +revert

/-- Nine turns of the ring are none. -/
theorem nine_turns_restore {i : Instr} {d : Fin 9} (h : TurnsRing i d) (s : State) :
    ∃ t, execTimes i 9 s = .next t ∧ t.a = s.a ∧ t.flag .c = s.flag .c := by
  obtain ⟨t, ht, hring⟩ := execTimes_turnsRing h 9 s
  simp only [nine_nsmul, add_zero] at hring
  refine ⟨t, ht, BitVec.eq_of_getLsbD_eq fun j hj => ?_, by simpa [ringBit] using hring 8⟩
  have hne : (⟨j, by omega⟩ : Fin 9) ≠ 8 := fun h8 => by
    have := congrArg Fin.val h8
    simp at this
    omega
  simpa only [ringBit, if_neg hne] using hring ⟨j, by omega⟩

/-- Settles O27: a rotate turns a ring of nine bits by one place. -/
theorem nineRotationsRestore : Obligations.NineRotationsRestore := by
  unfold Obligations.NineRotationsRestore
  exact fun s => ⟨nine_turns_restore rol_turnsRing s, nine_turns_restore ror_turnsRing s⟩

end Sys2Proof.Machine
end
